-- ==== Sys2Proof/Word.lean ====
section
/-! DEFINITION. The word types of the block and its sparse storage form. -/

namespace Sys2Proof

/-- A 32-bit register: ticks, signal ids, arguments, colours (00_scope.md R11). -/
abbrev Word := BitVec 32

/-- A 16-bit unit: event words, raw words, bitmap words (R9, R83). -/
abbrev Half := BitVec 16

/-- An 8-bit value: table entries, the modifier byte, fault codes. -/
abbrev Byte := BitVec 8

/-- Storage of `w`-bit units by index: pairs of an index and a value, indices strictly rising, no value 0
(`Cells.wf`). An index that is not listed reads as 0. One form for the queue storage, the peer bitmap and the
parameter ROM (20_memory.md R80); the unit is the spec's own, a 16-bit word or a byte, since no access splits
one (R87). -/
abbrev Cells (w : Nat) := List (Nat × BitVec w)

end Sys2Proof
end

