-- ==== Sys2Proof/Config.lean ====
section
/-! DEFINITION. The elaboration parameters of 00_scope.md R10 and the free values of the host's draws. -/

namespace Sys2Proof

/-- When the input-ready signal fires (43_input_queue.md R232). -/
inductive WakePolicy where
  | onTransition
  | everyWord
  deriving DecidableEq, Repr

/-- The keyboard source, fixed at elaboration (41_keyboard.md R170). -/
inductive KbdMode where
  | raw
  | cooked
  deriving DecidableEq, Repr

/-- Control held on a non-letter key (41_keyboard.md R179). -/
inductive CtrlNonletter where
  | fallthrough
  | ignore
  deriving DecidableEq, Repr

/-- When motion words are emitted (42_mouse.md R213). -/
inductive MotionPolicy where
  | onChange
  | everyPoll
  deriving DecidableEq, Repr

/-- The elaboration parameters of 00_scope.md R10: constant for the life of the block, not reset, written by
no command (10_state.md R68). -/
structure Config where
  /-- `QDEPTH`: input queue capacity in 16-bit words. -/
  qdepth : Nat
  wakePolicy : WakePolicy
  kbdMode : KbdMode
  /-- `CAPSLOCK_SCAN`: the raw scan code of the caps-lock key. -/
  capslockScan : Byte
  shiftMask : Byte
  ctrlMask : Byte
  altMask : Byte
  metaMask : Byte
  /-- `BASE_TABLE`: scan code 0–127 to character; 0 is "no character" (R184). -/
  baseTable : Cells 8
  /-- `SHIFT_TABLE`: shifted scan code 0–127 to character. -/
  shiftTable : Cells 8
  /-- `ALT_TABLE`: keyed by the base character 0–127; 0 is "no entry" (R177). -/
  altTable : Cells 8
  ctrlNonletter : CtrlNonletter
  /-- `BUTTON_CODE` where it differs from the default 130, 128, 129: the key `256·i + mods` gives the code of
  button index i with modifier byte mods (42_mouse.md R210). -/
  buttonCodes : List (Nat × Byte)
  motionPolicy : MotionPolicy
  /-- `CURSOR_GLYPH`: glyph row 0–15 to its 16 bits, bit 15 leftmost (20_memory.md R86). -/
  cursorGlyph : Cells 16
  /-- `CPF_RESET`, `DELAY_RESET`, `FG_RESET`, `BG_RESET`, `CUR_RESET`: the OPEN reset values. -/
  cpfReset : Word
  delayReset : Word
  fgReset : Word
  bgReset : Word
  curReset : Word
  deriving DecidableEq, Repr

/-- The defaults of R10; the default ALT_TABLE is that of 41_keyboard.md R183, in rising order of the base
character: '0'→'}', '7'→'{', '8'→'[', '9'→']', '?'→'\', 'q'→'@'.
PRESUMED (by the spec, from general knowledge): the caps-lock scan code, the masks and the digits' order in
ALT_TABLE (log 14).
DESIGN CHOICE: the contents the spec leaves OPEN (BASE_TABLE, SHIFT_TABLE, CURSOR_GLYPH and the five reset
values) are 0 here (log 1). -/
def Config.default : Config where
  qdepth := 256
  wakePolicy := .onTransition
  kbdMode := .raw
  capslockScan := 0x39
  shiftMask := 0x22
  ctrlMask := 0x11
  altMask := 0x44
  metaMask := 0x88
  baseTable := []
  shiftTable := []
  altTable := [(48, 125), (55, 123), (56, 91), (57, 93), (63, 92), (113, 64)]
  ctrlNonletter := .fallthrough
  buttonCodes := []
  motionPolicy := .onChange
  cursorGlyph := []
  cpfReset := 0
  delayReset := 0
  fgReset := 0
  bgReset := 0
  curReset := 0

/-- Free value: the n-th draw of the host's TICK port that no listed draw gives; any 32-bit value (10_state.md
R61; log 2). -/
opaque Config.freeTick : Nat → Word

/-- Free value: the n-th draw of the host's WALL_SECONDS port that no listed draw gives (R62; log 2). -/
opaque Config.freeWall : Nat → Word

end Sys2Proof
end

