-- ==== Sys2Proof/Syntax.lean ====
section
/-! DEFINITION. The instructions: one constructor per row of spec/opcode_table.json, and the operands named by
index. -/

namespace Sys2Proof

/-- The rows of spec/opcode_table.json: 23 commands (30_encoding.md R110), whose operands stand in the issuing
port's ARG registers, and 8 event-word rows (R101, R107), with the word's parameter and, where the row covers
several types, its type. -/
inductive Instr where
  | nop
  | frame
  | calcOffsets
  | checkWake
  | csrRead
  | csrWrite
  | emit
  | decWord
  | decReset
  | keyRaw
  | keyCooked
  | mouseMotion
  | mouseButtons
  | mousePoll
  | setInputSignal
  | qPop
  | reportDamage
  | setWake
  | terminate
  | drTake
  | blitRect
  | cursorUpdate
  | render
  | tsDelta (param : BitVec 12)
  | coord (param : BitVec 12)
  | down (param : BitVec 12)
  | up (param : BitVec 12)
  | tsAbs (param : BitVec 12)
  | reservedType2 (param : BitVec 12)
  | reservedType67 (type : BitVec 4) (param : BitVec 12)
  | reservedType815 (type : BitVec 4) (param : BitVec 12)
  deriving DecidableEq, Repr

/-- Command classes (30_encoding.md R109): host, peer, any. -/
inductive CmdClass where
  | H
  | P
  | A
  deriving DecidableEq, Repr

/-- The class column of R110. An event word is run by DEC_WORD, a class H command. -/
def Instr.cls : Instr → CmdClass
  | .nop => .A
  | .frame => .H
  | .calcOffsets => .H
  | .checkWake => .H
  | .csrRead => .A
  | .csrWrite => .H
  | .emit => .H
  | .decWord => .H
  | .decReset => .H
  | .keyRaw => .H
  | .keyCooked => .H
  | .mouseMotion => .H
  | .mouseButtons => .H
  | .mousePoll => .H
  | .setInputSignal => .P
  | .qPop => .P
  | .reportDamage => .P
  | .setWake => .P
  | .terminate => .P
  | .drTake => .H
  | .blitRect => .H
  | .cursorUpdate => .H
  | .render => .H
  | .tsDelta _ => .H
  | .coord _ => .H
  | .down _ => .H
  | .up _ => .H
  | .tsAbs _ => .H
  | .reservedType2 _ => .H
  | .reservedType67 _ _ => .H
  | .reservedType815 _ _ => .H

/-- The mnemonic of an instruction's row in spec/opcode_table.json. -/
def Instr.mnemonic : Instr → String
  | .nop => "NOP"
  | .frame => "FRAME"
  | .calcOffsets => "CALC_OFFSETS"
  | .checkWake => "CHECK_WAKE"
  | .csrRead => "CSR_READ"
  | .csrWrite => "CSR_WRITE"
  | .emit => "EMIT"
  | .decWord => "DEC_WORD"
  | .decReset => "DEC_RESET"
  | .keyRaw => "KEY_RAW"
  | .keyCooked => "KEY_COOKED"
  | .mouseMotion => "MOUSE_MOTION"
  | .mouseButtons => "MOUSE_BUTTONS"
  | .mousePoll => "MOUSE_POLL"
  | .setInputSignal => "SET_INPUT_SIGNAL"
  | .qPop => "Q_POP"
  | .reportDamage => "REPORT_DAMAGE"
  | .setWake => "SET_WAKE"
  | .terminate => "TERMINATE"
  | .drTake => "DR_TAKE"
  | .blitRect => "BLIT_RECT"
  | .cursorUpdate => "CURSOR_UPDATE"
  | .render => "RENDER"
  | .tsDelta _ => "TS_DELTA"
  | .coord _ => "COORD"
  | .down _ => "DOWN"
  | .up _ => "UP"
  | .tsAbs _ => "TS_ABS"
  | .reservedType2 _ => "RESERVED_TYPE2"
  | .reservedType67 _ _ => "RESERVED_TYPE6_7"
  | .reservedType815 _ _ => "RESERVED_TYPE8_15"

/-- The control and status registers of 47_control.md R340. -/
inductive Csr where
  | status
  | ctrl
  | faultCode
  | cyclesPerFrame
  | frameDelay
  | fgColor
  | bgColor
  | cursorColor
  | lastTick
  | evtCount
  | qCount
  | qHead
  | qdepth
  | inSig
  | modState
  | btnState
  | mouseLast
  | cursorNew
  | cursorPrev
  | drX
  | drY
  | drW
  | drH
  | offset
  | swSignal
  | swTick
  | decState
  | delayStart
  deriving DecidableEq, Repr

/-- A command as an issuer presents it: the CMD word and the four arguments (30_encoding.md R108). -/
structure Command where
  cmd : Word
  arg0 : Word
  arg1 : Word
  arg2 : Word
  arg3 : Word
  deriving DecidableEq, Repr

/-- The pseudo-instructions of 30_encoding.md R115. -/
inductive Pseudo where
  | cancelWake
  | unregisterInput
  | clearOvf
  | clearDecErr
  | readStatus
  deriving DecidableEq, Repr

end Sys2Proof
end

