-- ==== Sys2Proof/WellFormed.lean ====
section
/-! DEFINITION. Which instruction terms an encoding can denote. -/

namespace Sys2Proof

/-- An instruction is well-formed when its fields name a word of its own row (30_encoding.md R101, R107): the
two rows that cover several event types hold only their types. Commands have no field, and the other event
words' parameter is 12 bits by its type. -/
def Instr.wellFormed : Instr → Bool
  | .reservedType67 t _ => t = 6 || t = 7
  | .reservedType815 t _ => decide (8 ≤ t.toNat)
  | .nop | .frame | .calcOffsets | .checkWake | .csrRead | .csrWrite | .emit | .decWord | .decReset => true
  | .keyRaw | .keyCooked | .mouseMotion | .mouseButtons | .mousePoll | .setInputSignal | .qPop => true
  | .reportDamage | .setWake | .terminate | .drTake | .blitRect | .cursorUpdate | .render => true
  | .tsDelta _ | .coord _ | .down _ | .up _ | .tsAbs _ | .reservedType2 _ => true

end Sys2Proof
end

