-- ==== Sys2Proof/Decode.lean ====
section
/-! DEFINITION. The decoder of command words and event words, total on any word; after it the encoder. -/

namespace Sys2Proof

/-- Why a command word is no command (30_encoding.md R112). -/
inductive DecodeError where
  /-- `CMD[31:8]` is not 0. -/
  | reservedBits (cmd : Word)
  /-- `CMD[7:0]` is no opcode of the map. -/
  | reservedOpcode (opcode : Byte)
  deriving DecidableEq, Repr

/-- The opcode map of 30_encoding.md R110. -/
def decodeOpcode (op : Byte) : Option Instr :=
  match op.toNat with
  | 0x00 => some .nop
  | 0x01 => some .frame
  | 0x02 => some .calcOffsets
  | 0x03 => some .checkWake
  | 0x08 => some .csrRead
  | 0x09 => some .csrWrite
  | 0x10 => some .emit
  | 0x11 => some .decWord
  | 0x12 => some .decReset
  | 0x18 => some .keyRaw
  | 0x19 => some .keyCooked
  | 0x1C => some .mouseMotion
  | 0x1D => some .mouseButtons
  | 0x1E => some .mousePoll
  | 0x20 => some .setInputSignal
  | 0x21 => some .qPop
  | 0x22 => some .reportDamage
  | 0x23 => some .setWake
  | 0x24 => some .terminate
  | 0x30 => some .drTake
  | 0x31 => some .blitRect
  | 0x32 => some .cursorUpdate
  | 0x33 => some .render
  | _ => none

/-- Decode a CMD word (R108, R110): the opcode is `CMD[7:0]`, and `CMD[31:8]` must be 0. -/
def decodeCommand (cmd : Word) : Except DecodeError Instr :=
  if cmd.extractLsb' 8 24 ≠ 0 then .error (.reservedBits cmd)
  else
    match decodeOpcode (cmd.extractLsb' 0 8) with
    | some i => .ok i
    | none => .error (.reservedOpcode (cmd.extractLsb' 0 8))

/-- `w[15:12]` of an event word (R100). -/
def eventType (w : Half) : BitVec 4 := w.extractLsb' 12 4

/-- `w[11:0]` of an event word (R100). -/
def eventParam (w : Half) : BitVec 12 := w.extractLsb' 0 12

/-- Decode a tagged event word by its type field (R101, R107). -/
def decodeEventWord (w : Half) : Instr :=
  match (eventType w).toNat with
  | 0 => .tsDelta (eventParam w)
  | 1 => .coord (eventParam w)
  | 2 => .reservedType2 (eventParam w)
  | 3 => .down (eventParam w)
  | 4 => .up (eventParam w)
  | 5 => .tsAbs (eventParam w)
  | 6 => .reservedType67 6 (eventParam w)
  | 7 => .reservedType67 7 (eventParam w)
  | _ => .reservedType815 (eventType w) (eventParam w)

/-- An encoded instruction: a word of one of the two encoded spaces. -/
inductive Encoded where
  | command (cmd : Word)
  | event (w : Half)
  deriving DecidableEq, Repr

/-- Decode a word of either space. -/
def decode : Encoded → Except DecodeError Instr
  | .command cmd => decodeCommand cmd
  | .event w => .ok (decodeEventWord w)

/-- The instruction the decoder reads from an `nbits`-bit row word `w`, bits numbered as the opcode table
numbers them. The table's rows have 32 bits (CMD32) or 16 bits (EVW16); a word that does not fit its width, or
another width, is no instruction. -/
def decodeTableWord (nbits w : Nat) : Option Instr :=
  if 2 ^ nbits ≤ w then none
  else if nbits = 32 then (decode (.command (BitVec.ofNat 32 w))).toOption
  else if nbits = 16 then (decode (.event (BitVec.ofNat 16 w))).toOption
  else none

/-- `Pack(t, p)` of 40_event_codec.md R131, for a type and a parameter in range. -/
def packFields (t : BitVec 4) (p : BitVec 12) : Half := t ++ p

/-- The encoder: the word of an instruction (R108, R110, R100, R101). -/
def encode : Instr → Encoded
  | .nop => .command 0x00
  | .frame => .command 0x01
  | .calcOffsets => .command 0x02
  | .checkWake => .command 0x03
  | .csrRead => .command 0x08
  | .csrWrite => .command 0x09
  | .emit => .command 0x10
  | .decWord => .command 0x11
  | .decReset => .command 0x12
  | .keyRaw => .command 0x18
  | .keyCooked => .command 0x19
  | .mouseMotion => .command 0x1C
  | .mouseButtons => .command 0x1D
  | .mousePoll => .command 0x1E
  | .setInputSignal => .command 0x20
  | .qPop => .command 0x21
  | .reportDamage => .command 0x22
  | .setWake => .command 0x23
  | .terminate => .command 0x24
  | .drTake => .command 0x30
  | .blitRect => .command 0x31
  | .cursorUpdate => .command 0x32
  | .render => .command 0x33
  | .tsDelta p => .event (packFields 0 p)
  | .coord p => .event (packFields 1 p)
  | .down p => .event (packFields 3 p)
  | .up p => .event (packFields 4 p)
  | .tsAbs p => .event (packFields 5 p)
  | .reservedType2 p => .event (packFields 2 p)
  | .reservedType67 t p => .event (packFields t p)
  | .reservedType815 t p => .event (packFields t p)

/-- The CSR index map of 47_control.md R340; every other index is undefined. -/
def csrOfIndex (i : Word) : Option Csr :=
  match i.toNat with
  | 0x00 => some .status
  | 0x01 => some .ctrl
  | 0x02 => some .faultCode
  | 0x03 => some .cyclesPerFrame
  | 0x04 => some .frameDelay
  | 0x05 => some .fgColor
  | 0x06 => some .bgColor
  | 0x07 => some .cursorColor
  | 0x08 => some .lastTick
  | 0x09 => some .evtCount
  | 0x0A => some .qCount
  | 0x0B => some .qHead
  | 0x0C => some .qdepth
  | 0x0D => some .inSig
  | 0x0E => some .modState
  | 0x0F => some .btnState
  | 0x10 => some .mouseLast
  | 0x11 => some .cursorNew
  | 0x12 => some .cursorPrev
  | 0x13 => some .drX
  | 0x14 => some .drY
  | 0x15 => some .drW
  | 0x16 => some .drH
  | 0x17 => some .offset
  | 0x18 => some .swSignal
  | 0x19 => some .swTick
  | 0x1A => some .decState
  | 0x1B => some .delayStart
  | _ => none

/-- The expansions of the pseudo-instructions (30_encoding.md R115), as the issuer writes them to a port whose
registers are `regs`: an argument register the expansion does not take is left as it was (R114). -/
def Pseudo.expand (regs : Command) : Pseudo → Command
  | .cancelWake => { regs with cmd := 0x23, arg0 := 0, arg1 := 0 }
  | .unregisterInput => { regs with cmd := 0x20, arg0 := 0 }
  | .clearOvf => { regs with cmd := 0x09, arg0 := 0x00, arg1 := 0x1 }
  | .clearDecErr => { regs with cmd := 0x09, arg0 := 0x00, arg1 := 0x2 }
  | .readStatus => { regs with cmd := 0x08, arg0 := 0x00 }

end Sys2Proof
end

