-- ==== Sys2Proof/Machine/State.lean ====
section
/-! DEFINITION. The block's state as plain data (10_state.md), the outside world's inputs to it, and reset. -/

namespace Sys2Proof.Machine

/-- Why a step of the MODEL would stop. It has no constructor: every command, internal step and input of the
spec has a next state, the block's own faults (60_exceptions.md R362) among them, and a block with nothing to do
waits (log 20). -/
inductive Fault where
  deriving DecidableEq, Repr

/-- Why an instruction would have no meaning in the model. -/
inductive Refusal where
  /-- Raised by `exec` for an instruction not modelled yet; no arm raises it. Safe. -/
  | notModelled (mnemonic : String)
  deriving DecidableEq, Repr

/-- The sequencer phases (R52, 46_sequencer.md R310); the codes 10–15 are never held. -/
inductive Phase where
  | idle
  | offsets
  | poll
  | wake
  | run
  | termchk
  | render
  | delay
  | terminated
  | faulted
  deriving DecidableEq, Repr

/-- `DEC_PHASE` (R38): which kind of word the stream decoder takes next. -/
inductive DecPhase where
  | tag
  | hi
  | lo
  deriving DecidableEq, Repr

/-- The fault codes of 60_exceptions.md R361. -/
inductive FaultCode where
  | noInputSignal
  | damageBounds
  | paramRange
  | noBitmap
  | illegalCmd
  | badCsr
  deriving DecidableEq, Repr

/-- The kinds of notification (60_exceptions.md R370). -/
inductive SignalKind where
  | inputReady
  | timer
  deriving DecidableEq, Repr

/-- One event of the output trace (R67). -/
inductive Output where
  | signal (kind : SignalKind) (id : Word)
  | pixel (x y : Nat) (colour : Word)
  | fetch (index : Nat) (handle : Word)
  | runRequest (cycles : Word)
  deriving DecidableEq, Repr

/-- The command interface registers of one port (R33), and whether a command presented there waits to be
executed (46_sequencer.md R312). -/
structure Port where
  cmd : Word := 0
  arg0 : Word := 0
  arg1 : Word := 0
  arg2 : Word := 0
  arg3 : Word := 0
  res0 : Word := 0
  res1 : Word := 0
  res2 : Word := 0
  res3 : Word := 0
  waiting : Bool := false
  deriving DecidableEq, Repr

/-- The two command ports (R34). -/
inductive PortName where
  | host
  | peer
  deriving DecidableEq, Repr

/-- One button of the Mouse Translator (R42). -/
structure Button where
  down : Bool := false
  code : Byte := 0
  deriving DecidableEq, Repr

/-- The host's TICK and WALL_SECONDS ports (R61, R62): the draws it will give next, and how many have been
taken. When no draw is listed, the draw is a free value (log 2). -/
structure Clock where
  ticks : List Word := []
  walls : List Word := []
  tickDraws : Nat := 0
  wallDraws : Nat := 0
  deriving DecidableEq, Repr

/-- One keyboard report (R63): RAW (scan code, modifier byte), COOKED (byte, flags). -/
structure KeyReport where
  a : Word
  b : Word
  deriving DecidableEq, Repr

/-- `MOUSE_X`, `MOUSE_Y`, `MOUSE_BTN` (R63). -/
structure MouseSample where
  x : Word
  y : Word
  btn : Word
  deriving DecidableEq, Repr

/-- `SCREEN_W`, `SCREEN_H` (R63). -/
structure Screen where
  w : Half
  h : Half
  deriving DecidableEq, Repr

/-- The peer's bitmap (R64, R65): `DISP_HANDLE` (0 is null), `DISP_W`, `DISP_H` and the words by word index. -/
structure Display where
  handle : Word
  w : Half
  h : Half
  words : Cells 16
  deriving DecidableEq, Repr

/-- One move of the outside world, or `block`: the block moves. -/
inductive Move where
  | block
  /-- The host writes its port's registers and presents the command. -/
  | hostCommand (c : Command)
  | peerCommand (c : Command)
  /-- The peer's answer that ends phase RUN (R66). -/
  | runDone
  /-- The host asserts reset (70_reset_and_hazards.md R400). -/
  | reset
  /-- Further draws of TICK, and of WALL_SECONDS. -/
  | ticks (draws : List Word)
  | walls (draws : List Word)
  /-- Further keyboard reports at the port. -/
  | keys (reports : List KeyReport)
  | mouse (sample : MouseSample)
  | screen (size : Screen)
  /-- A new bitmap descriptor, and the bitmap's words that are not 0. -/
  | display (handle : Word) (w h : Half) (words : List (Nat × Half))
  deriving DecidableEq, Repr

/-- The block's registers (10_state.md), its parameters, its output trace and its input ports. -/
structure State where
  /-- The elaboration parameters (R68); no step writes them. -/
  cfg : Config
  -- command ports (R33, R34)
  host : Port
  peer : Port
  -- Event Codec (R35–R37)
  lastTick : Word
  tsValid : Bool
  evtCount : Word
  -- stream decoder (R38, R39)
  decPhase : DecPhase
  decHi : Half
  decXy : Bool
  decErr : Bool
  -- Keyboard Decoder (R40, R41)
  modState : Byte
  caps : Bool
  -- Mouse Translator (R42–R44)
  btn0 : Button
  btn1 : Button
  btn2 : Button
  mposValid : Bool
  lastMx : Half
  lastMy : Half
  curNewX : Half
  curNewY : Half
  -- Input Queue (R45–R47)
  q : Cells 16
  qHead : Nat
  qCount : Nat
  qOvf : Bool
  inSig : Word
  -- Dirty-Region Tracker (R48)
  drX : Half
  drY : Half
  drW : Half
  drH : Half
  -- Display Blitter (R49, R50)
  curPrevX : Half
  curPrevY : Half
  offX : Half
  offY : Half
  -- scheduled wake (R51)
  swPending : Bool
  swSignal : Word
  swTick : Word
  -- sequencer (R52–R55)
  seqPhase : Phase
  termFlag : Bool
  faultCode : Byte
  delayStart : Word
  -- configuration registers (R56–R59)
  ctrl : Word
  cyclesPerFrame : Word
  frameDelay : Word
  fgColor : Word
  bgColor : Word
  cursorColor : Word
  /-- The output trace, oldest first (R67). -/
  trace : List Output
  -- input ports (R61–R65)
  clock : Clock
  kbd : List KeyReport
  mouse : MouseSample
  screen : Screen
  display : Display
  /-- The outside world's next moves (log 6). -/
  schedule : List Move
  deriving DecidableEq, Repr

/-- The reset state of a block with parameters `cfg` (R69, 70_reset_and_hazards.md R401).
DESIGN CHOICE: the queue storage reads 0 (R45 leaves it unspecified; log 4), and the input ports hold no draw,
no report, a mouse at (0, 0) with no button, a screen of size 0 and no bitmap (log 5). -/
def State.resetOf (cfg : Config) : State where
  cfg := cfg
  host := {}
  peer := {}
  lastTick := 0
  tsValid := false
  evtCount := 0
  decPhase := .tag
  decHi := 0
  decXy := false
  decErr := false
  modState := 0
  caps := false
  btn0 := {}
  btn1 := {}
  btn2 := {}
  mposValid := false
  lastMx := 0
  lastMy := 0
  curNewX := 0
  curNewY := 0
  q := []
  qHead := 0
  qCount := 0
  qOvf := false
  inSig := 0
  drX := 0
  drY := 0
  drW := 0
  drH := 0
  curPrevX := 0
  curPrevY := 0
  offX := 0
  offY := 0
  swPending := false
  swSignal := 0
  swTick := 0
  seqPhase := .idle
  termFlag := false
  faultCode := 0
  delayStart := 0
  ctrl := 0
  cyclesPerFrame := cfg.cpfReset
  frameDelay := cfg.delayReset
  fgColor := cfg.fgReset
  bgColor := cfg.bgReset
  cursorColor := cfg.curReset
  trace := []
  clock := {}
  kbd := []
  mouse := ⟨0, 0, 0⟩
  screen := ⟨0, 0⟩
  display := ⟨0, 0, 0, []⟩
  schedule := []

/-- The machine right after reset, with the default parameters of 00_scope.md R10 (log 1). -/
def State.reset : State := State.resetOf Config.default

end Sys2Proof.Machine
end

