-- ==== Sys2Proof/Machine/Ops.lean ====
section
/-! DEFINITION. The named operations over storage, draws, the queue and the output trace; taking a fault, reset,
and issuing a command. -/

namespace Sys2Proof

/-- The unit at index `a`; an index that is not listed reads as 0. -/
def Cells.read {w : Nat} : Cells w → Nat → BitVec w
  | [], _ => 0#w
  | (b, v) :: m, a => if a = b then v else if a < b then 0#w else Cells.read m a

/-- Store `v` at index `a`, keeping the canonical form: storing 0 removes the entry. -/
def Cells.write {w : Nat} : Cells w → Nat → BitVec w → Cells w
  | [], a, v => if v = 0#w then [] else [(a, v)]
  | (b, u) :: m, a, v =>
    if a < b then (if v = 0#w then (b, u) :: m else (a, v) :: (b, u) :: m)
    else if a = b then (if v = 0#w then m else (a, v) :: m)
    else (b, u) :: Cells.write m a v

/-- Canonical form from index `lo` up: indices strictly rising, no value 0. -/
def Cells.wfFrom {w : Nat} : Nat → Cells w → Bool
  | _, [] => true
  | lo, (b, u) :: m => decide (lo ≤ b) && decide (u ≠ 0#w) && Cells.wfFrom (b + 1) m

/-- The canonical form, in which equal contents are equal lists. -/
def Cells.wf {w : Nat} (m : Cells w) : Bool := Cells.wfFrom 0 m

/-- The canonical storage that holds the listed units. -/
def Cells.ofList {w : Nat} (l : List (Nat × BitVec w)) : Cells w :=
  l.foldl (fun m p => Cells.write m p.1 p.2) []

namespace Machine

/-- What the body of a command or sub-step ends in: a state, or `raise Fault(code)` (00_scope.md R14). -/
abbrev Result := Except FaultCode State

/-- One step's outcome. -/
abbrev Answer := Host.Outcome State Fault Refusal

/-- The values of FAULT_CODE (60_exceptions.md R361). -/
def FaultCode.code : FaultCode → Byte
  | .noInputSignal => 1
  | .damageBounds => 2
  | .paramRange => 3
  | .noBitmap => 4
  | .illegalCmd => 5
  | .badCsr => 6

/-- `SampleTick()` (10_state.md R61): one draw of TICK. -/
def Clock.sampleTick (c : Clock) : Word × Clock :=
  match c.ticks with
  | t :: rest => (t, { c with ticks := rest, tickDraws := c.tickDraws + 1 })
  | [] => (Config.freeTick c.tickDraws, { c with tickDraws := c.tickDraws + 1 })

/-- `SampleWall()` (R62): one draw of WALL_SECONDS. -/
def Clock.sampleWall (c : Clock) : Word × Clock :=
  match c.walls with
  | s :: rest => (s, { c with walls := rest, wallDraws := c.wallDraws + 1 })
  | [] => (Config.freeWall c.wallDraws, { c with wallDraws := c.wallDraws + 1 })

/-- Append events to the output trace (R67). -/
def State.emitOutputs (s : State) (es : List Output) : State := { s with trace := s.trace ++ es }

/-- `Signal(kind, id)` (60_exceptions.md R370). -/
def State.signal (s : State) (kind : SignalKind) (id : Word) : State := s.emitOutputs [.signal kind id]

/-- Whether `WakeOnEnqueue(was_empty)` signals (43_input_queue.md R232). -/
def wakeOnEnqueue (policy : WakePolicy) (wasEmpty : Bool) : Bool :=
  match policy with
  | .onTransition => wasEmpty
  | .everyWord => true

/-- `Enqueue(w)` (43_input_queue.md R231). -/
def State.enqueue (s : State) (w : Half) : State :=
  let stored := { s with
    q := s.q.write ((s.qHead + s.qCount) % s.cfg.qdepth) w
    qCount := s.qCount + 1 }
  if wakeOnEnqueue s.cfg.wakePolicy (s.qCount == 0) then stored.signal .inputReady s.inSig else stored

/-- Enqueue words in order (40_event_codec.md R140). -/
def State.enqueueAll (s : State) : List Half → State
  | [] => s
  | w :: ws => (s.enqueue w).enqueueAll ws

/-- The word `Dequeue()` returns (43_input_queue.md R235). -/
def State.oldestWord (s : State) : Half := s.q.read s.qHead

/-- The state `Dequeue()` leaves (R235). The entry stays in storage, where nothing can read it (R45). -/
def State.dequeue (s : State) : State :=
  { s with qHead := (s.qHead + 1) % s.cfg.qdepth, qCount := s.qCount - 1 }

/-- The words the queue holds, oldest first (R45): entries `Q[(Q_HEAD + k) mod QDEPTH]`, k below Q_COUNT. -/
def State.heldWords (s : State) : List Half :=
  (List.range s.qCount).map fun k => s.q.read ((s.qHead + k) % s.cfg.qdepth)

/-- The fault transition (60_exceptions.md R362), from the state before the faulting command: the first fault's
code is kept, and the block stops in FAULTED. There is no return from a fault (R367). -/
def State.takeFault (s : State) (c : FaultCode) : State :=
  { s with
    faultCode := if s.faultCode = 0 then c.code else s.faultCode
    seqPhase := .faulted }

/-- Reset (70_reset_and_hazards.md R400, R401): every register at its reset value, waiting commands discarded,
the output trace empty. The parameters and the input ports are not the block's to reset; the queue storage, which
R45 leaves unspecified, keeps its contents (log 16). -/
def State.assertReset (s : State) : State :=
  { State.resetOf s.cfg with
    q := s.q
    clock := s.clock
    kbd := s.kbd
    mouse := s.mouse
    screen := s.screen
    display := s.display
    schedule := s.schedule }

/-- End a command: its state, or the fault transition from the state `s` before it (R362). -/
def complete (s : State) : Result → Answer
  | .ok t => .next t
  | .error c => .next (s.takeFault c)

/-- Execute a command of class `c` at the live port, as 46_sequencer.md R312 lets it in this phase: IDLE accepts
every class (from the host port); RUN accepts P and A (from the peer port) and faults ILLEGAL_CMD on H;
TERMINATED and FAULTED accept A and ignore the rest (60_exceptions.md R368); in the other phases no command is
executed, it waits. -/
def issue (c : CmdClass) (s : State) (rule : State → Result) : Answer :=
  match s.seqPhase with
  | .idle => complete s (rule s)
  | .run => if c = .H then .next (s.takeFault .illegalCmd) else complete s (rule s)
  | .terminated | .faulted => if c = .A then complete s (rule s) else .next s
  | .offsets | .poll | .wake | .termchk | .render | .delay => .next s

/-- An illegal CMD word at the live port (30_encoding.md R112): a fault where the port accepts commands, ignored
while halted (R368). -/
def issueIllegal (s : State) : Answer :=
  match s.seqPhase with
  | .idle | .run => .next (s.takeFault .illegalCmd)
  | .terminated | .faulted => .next s
  | .offsets | .poll | .wake | .termchk | .render | .delay => .next s

/-- Halted: TERMINATED or FAULTED (60_exceptions.md R368). -/
def State.halted (s : State) : Bool := s.seqPhase = .terminated || s.seqPhase = .faulted

end Machine
end Sys2Proof
end

