-- ==== Sys2Proof/Machine/Operands.lean ====
section
/-! DEFINITION. The operand and result registers of the live port (10_state.md R33, R34). -/

namespace Sys2Proof.Machine

/-- The port a command executes from: the peer port in RUN, else the host port (46_sequencer.md R312). -/
def State.livePort (s : State) : PortName := if s.seqPhase = .run then .peer else .host

/-- The registers of a port. -/
def State.port (s : State) : PortName → Port
  | .host => s.host
  | .peer => s.peer

/-- Change the registers of a port; the other port's are untouched (70_reset_and_hazards.md R415). -/
def State.setPort (s : State) (n : PortName) (f : Port → Port) : State :=
  match n with
  | .host => { s with host := f s.host }
  | .peer => { s with peer := f s.peer }

/-- ARG0 to ARG3 of the live port (30_encoding.md R108). -/
def State.arg0 (s : State) : Word := (s.port s.livePort).arg0
def State.arg1 (s : State) : Word := (s.port s.livePort).arg1
def State.arg2 (s : State) : Word := (s.port s.livePort).arg2
def State.arg3 (s : State) : Word := (s.port s.livePort).arg3

/-- Write RES0 of the live port; the other result registers keep their values (R33). -/
def State.setRes0 (s : State) (v : Word) : State := s.setPort s.livePort fun p => { p with res0 := v }

/-- Write RES0 and RES1 of the live port. -/
def State.setRes01 (s : State) (v0 v1 : Word) : State :=
  s.setPort s.livePort fun p => { p with res0 := v0, res1 := v1 }

/-- Write RES0 to RES3 of the live port. -/
def State.setRes (s : State) (v0 v1 v2 v3 : Word) : State :=
  s.setPort s.livePort fun p => { p with res0 := v0, res1 := v1, res2 := v2, res3 := v3 }

/-- Write a command to a port and present it (R33, 46_sequencer.md R312). -/
def Port.present (p : Port) (c : Command) : Port :=
  { p with cmd := c.cmd, arg0 := c.arg0, arg1 := c.arg1, arg2 := c.arg2, arg3 := c.arg3, waiting := true }

/-- What a port's CMD and ARG registers hold. -/
def Port.command (p : Port) : Command := ⟨p.cmd, p.arg0, p.arg1, p.arg2, p.arg3⟩

/-- Write a pseudo-instruction to a port and present it (30_encoding.md R114, R115). -/
def Port.presentPseudo (p : Port) (x : Pseudo) : Port := p.present (x.expand p.command)

/-- The command waiting at a port is accepted: it waits no longer; the port's registers are held. -/
def State.accept (s : State) (n : PortName) : State := s.setPort n fun p => { p with waiting := false }

end Sys2Proof.Machine
end

