-- ==== Sys2Proof/Machine/Flags.lean ====
section
/-! DEFINITION. The codes of the phases, the STATUS view and the fields of CTRL (10_state.md R38, R52, R56, R60). -/

namespace Sys2Proof.Machine

/-- The value of SEQ_PHASE (R52). -/
def Phase.code : Phase → BitVec 4
  | .idle => 0
  | .offsets => 1
  | .poll => 2
  | .wake => 3
  | .run => 4
  | .termchk => 5
  | .render => 6
  | .delay => 7
  | .terminated => 8
  | .faulted => 9

/-- The value of DEC_PHASE (R38). -/
def DecPhase.code : DecPhase → BitVec 2
  | .tag => 0
  | .hi => 1
  | .lo => 2

/-- A flag as one bit. -/
def flagBit (b : Bool) : BitVec 1 := BitVec.ofBool b

/-- STATUS (R60), from bit 31 down: reserved 0, SEQ_PHASE, TERM_FLAG, MPOS_VALID, IN_SIG_VALID, SW_PENDING, CAPS,
TS_VALID, DEC_ERR, Q_OVF. -/
def State.status (s : State) : Word :=
  ((0 : BitVec 20) ++ s.seqPhase.code ++ flagBit s.termFlag ++ flagBit s.mposValid ++ flagBit (s.inSig != 0)
    ++ flagBit s.swPending ++ flagBit s.caps ++ flagBit s.tsValid ++ flagBit s.decErr ++ flagBit s.qOvf)

/-- A write to STATUS (47_control.md R342): bits 0 and 1 clear Q_OVF and DEC_ERR when written 1; the rest is
ignored. -/
def State.writeStatus (s : State) (v : Word) : State :=
  { s with
    qOvf := s.qOvf && !v.getLsbD 0
    decErr := s.decErr && !v.getLsbD 1 }

/-- CTRL.UNDECODED (R56). -/
def State.undecoded (s : State) : Bool := s.ctrl.getLsbD 0

/-- CTRL.VSYNC (R56). -/
def State.vsync (s : State) : Bool := s.ctrl.getLsbD 1

/-- The defined bits of CTRL (R56): the reserved ones read 0 and ignore writes. -/
def ctrlMask : Word := 0x3

/-- Flip a one-bit flag: `1 - b`. -/
def flipBit (b : Bool) : Bool := !b

end Sys2Proof.Machine
end

