-- ==== Sys2Proof/Machine/Control.lean ====
section
/-! DEFINITION. The control and status registers: CSR_READ, CSR_WRITE, NOP (47_control.md). -/

namespace Sys2Proof.Machine

/-- NOP (R343). -/
def execNop (s : State) : Answer := issue .A s fun s => .ok s

/-- BTN_STATE (R340), from bit 31 down: the codes of buttons 2, 1, 0, then bits 7:3 zero, then the down bits. -/
def State.btnState (s : State) : Word :=
  (s.btn2.code ++ s.btn1.code ++ s.btn0.code ++ (0 : BitVec 5)
    ++ flagBit s.btn2.down ++ flagBit s.btn1.down ++ flagBit s.btn0.down)

/-- DEC_STATE (R340): DEC_HI in bits 31:16, DEC_XY in bit 2, DEC_PHASE in bits 1:0. -/
def State.decState (s : State) : Word :=
  (s.decHi ++ (0 : BitVec 13) ++ flagBit s.decXy ++ s.decPhase.code)

/-- The value of a register, laid out as R340 says and zero-extended to 32 bits. -/
def csrValue (s : State) : Csr → Word
  | .status => s.status
  | .ctrl => s.ctrl &&& ctrlMask
  | .faultCode => s.faultCode.setWidth 32
  | .cyclesPerFrame => s.cyclesPerFrame
  | .frameDelay => s.frameDelay
  | .fgColor => s.fgColor
  | .bgColor => s.bgColor
  | .cursorColor => s.cursorColor
  | .lastTick => s.lastTick
  | .evtCount => s.evtCount
  | .qCount => BitVec.ofNat 32 s.qCount
  | .qHead => BitVec.ofNat 32 s.qHead
  | .qdepth => BitVec.ofNat 32 s.cfg.qdepth
  | .inSig => s.inSig
  | .modState => s.modState.setWidth 32
  | .btnState => s.btnState
  | .mouseLast => s.lastMy ++ s.lastMx
  | .cursorNew => s.curNewY ++ s.curNewX
  | .cursorPrev => s.curPrevY ++ s.curPrevX
  | .drX => s.drX.setWidth 32
  | .drY => s.drY.setWidth 32
  | .drW => s.drW.setWidth 32
  | .drH => s.drH.setWidth 32
  | .offset => s.offY ++ s.offX
  | .swSignal => s.swSignal
  | .swTick => s.swTick
  | .decState => s.decState
  | .delayStart => s.delayStart

/-- The body of CSR_READ (R341): an undefined index faults BAD_CSR, but while halted it changes nothing
(60_exceptions.md R368). -/
def csrRead (index : Word) (s : State) : Result :=
  match csrOfIndex index with
  | some r => .ok (s.setRes0 (csrValue s r))
  | none => if s.halted then .ok s else .error .badCsr

/-- CSR_READ (R341). -/
def execCsrRead (s : State) : Answer := issue .A s fun s => csrRead s.arg0 s

/-- The write of a register by CSR_WRITE (R342): STATUS is write-1-to-clear, the configuration registers are
read-write, every other register is read-only and faults BAD_CSR. -/
def csrStore (r : Csr) (v : Word) (s : State) : Result :=
  match r with
  | .status => .ok (s.writeStatus v)
  | .ctrl => .ok { s with ctrl := v &&& ctrlMask }
  | .cyclesPerFrame => .ok { s with cyclesPerFrame := v }
  | .frameDelay => .ok { s with frameDelay := v }
  | .fgColor => .ok { s with fgColor := v }
  | .bgColor => .ok { s with bgColor := v }
  | .cursorColor => .ok { s with cursorColor := v }
  | .faultCode | .lastTick | .evtCount | .qCount | .qHead | .qdepth | .inSig | .modState => .error .badCsr
  | .btnState | .mouseLast | .cursorNew | .cursorPrev | .drX | .drY | .drW | .drH => .error .badCsr
  | .offset | .swSignal | .swTick | .decState | .delayStart => .error .badCsr

/-- The body of CSR_WRITE (R342). -/
def csrWrite (index value : Word) (s : State) : Result :=
  match csrOfIndex index with
  | some r => csrStore r value s
  | none => .error .badCsr

/-- CSR_WRITE (R342). -/
def execCsrWrite (s : State) : Answer := issue .H s fun s => csrWrite s.arg0 s.arg1 s

end Sys2Proof.Machine
end

