-- ==== Sys2Proof/Machine/Decoder.lean ====
section
/-! DEFINITION. The stream decoder: DEC_WORD, DEC_RESET and the event words it runs (40_event_codec.md §5). -/

namespace Sys2Proof.Machine

/-- The token kinds DEC_WORD returns in RES0 (30_encoding.md R117). -/
inductive TokenKind where
  | none
  | delta
  | coordX
  | coordY
  | down
  | up
  | abs
  | reserved
  deriving DecidableEq, Repr

/-- The values of the token kinds (R117). -/
def TokenKind.code : TokenKind → Word
  | .none => 0
  | .delta => 1
  | .coordX => 2
  | .coordY => 3
  | .down => 4
  | .up => 5
  | .abs => 6
  | .reserved => 7

/-- Return a token in RES0 and RES1. -/
def State.token (s : State) (k : TokenKind) (v : Word) : State := s.setRes01 k.code v

/-- A word fed to the decoder (R150): in phase HI or LO it is raw whatever its bits (30_encoding.md R106); in
phase TAG it is tagged, and `tagged` is what its type does. -/
def feed (w : Half) (tagged : State → State) (s : State) : State :=
  match s.decPhase with
  | .hi => { s with decHi := w, decPhase := .lo }.token .none 0
  | .lo => { s with decPhase := .tag }.token .abs (s.decHi ++ w)
  | .tag => tagged s

/-- Feed an event word as DEC_WORD, a class H command, does. -/
def feedEvent (w : Half) (s : State) (tagged : State → State) : Answer :=
  issue .H s fun s => .ok (feed w tagged s)

/-- A reserved type: the RESERVED token carries the whole word, and DEC_ERR is set (R150, 30_encoding.md R107). -/
def State.reservedToken (s : State) (w : Half) : State :=
  { s with decErr := true }.token .reserved (w.setWidth 32)

/-- TS_DELTA, type 0 (R101, R150). -/
def execTsDelta (p : BitVec 12) (s : State) : Answer :=
  feedEvent (packFields 0 p) s fun s => s.token .delta (p.setWidth 32)

/-- COORD, type 1 (R101, R150): x and y alternate. -/
def execCoord (p : BitVec 12) (s : State) : Answer :=
  feedEvent (packFields 1 p) s fun s =>
    { s with decXy := flipBit s.decXy }.token (if s.decXy then .coordY else .coordX) (p.setWidth 32)

/-- DOWN, type 3 (R101, R150). -/
def execDown (p : BitVec 12) (s : State) : Answer :=
  feedEvent (packFields 3 p) s fun s => s.token .down (p.setWidth 32)

/-- UP, type 4 (R101, R150). -/
def execUp (p : BitVec 12) (s : State) : Answer :=
  feedEvent (packFields 4 p) s fun s => s.token .up (p.setWidth 32)

/-- TS_ABS, type 5 (R102, R150): two raw words follow; the marker's parameter is ignored. -/
def execTsAbs (p : BitVec 12) (s : State) : Answer :=
  feedEvent (packFields 5 p) s fun s => { s with decPhase := .hi }.token .none 0

/-- The reserved type 2 (R107, R150). -/
def execReservedType2 (p : BitVec 12) (s : State) : Answer :=
  feedEvent (packFields 2 p) s fun s => s.reservedToken (packFields 2 p)

/-- The reserved types 6 and 7 (R107, R150). -/
def execReservedType67 (t : BitVec 4) (p : BitVec 12) (s : State) : Answer :=
  feedEvent (packFields t p) s fun s => s.reservedToken (packFields t p)

/-- The reserved types 8 to 15 (R107, R150). -/
def execReservedType815 (t : BitVec 4) (p : BitVec 12) (s : State) : Answer :=
  feedEvent (packFields t p) s fun s => s.reservedToken (packFields t p)

/-- DEC_WORD (R150): run the event word ARG0[15:0] in the decoder. -/
def execDecWord (s : State) : Answer :=
  let w := s.arg0.setWidth 16
  match (eventType w).toNat with
  | 0 => execTsDelta (eventParam w) s
  | 1 => execCoord (eventParam w) s
  | 2 => execReservedType2 (eventParam w) s
  | 3 => execDown (eventParam w) s
  | 4 => execUp (eventParam w) s
  | 5 => execTsAbs (eventParam w) s
  | 6 => execReservedType67 6 (eventParam w) s
  | 7 => execReservedType67 7 (eventParam w) s
  | _ => execReservedType815 (eventType w) (eventParam w) s

/-- DEC_RESET (R151): the decoder's start state; DEC_ERR is not cleared. -/
def execDecReset (s : State) : Answer :=
  issue .H s fun s => .ok { s with decPhase := .tag, decHi := 0, decXy := false }

end Sys2Proof.Machine
end

