-- ==== Sys2Proof/Machine/Queue.lean ====
section
/-! DEFINITION. The peer's commands on the Input Queue: SET_INPUT_SIGNAL, Q_POP (43_input_queue.md). -/

namespace Sys2Proof.Machine

/-- SET_INPUT_SIGNAL (R233): 0 unregisters; registering never signals. -/
def execSetInputSignal (s : State) : Answer := issue .P s fun s => .ok { s with inSig := s.arg0 }

/-- The body of Q_POP (R234). -/
def qPop (s : State) : State :=
  if s.qCount = 0 then s.setRes01 0 0 else s.dequeue.setRes01 (s.oldestWord.setWidth 32) 1

/-- Q_POP (R234). -/
def execQPop (s : State) : Answer := issue .P s fun s => .ok (qPop s)

end Sys2Proof.Machine
end

