-- ==== Sys2Proof/Machine/Damage.lean ====
section
/-! DEFINITION. The Dirty-Region Tracker: REPORT_DAMAGE, DR_TAKE (44_dirty_rect.md). -/

namespace Sys2Proof.Machine

/-- A rectangle on naturals. -/
structure Rect where
  x : Nat
  y : Nat
  w : Nat
  h : Nat
  deriving DecidableEq, Repr

/-- `Empty` (R250). -/
def Rect.isEmpty (r : Rect) : Bool := r.w = 0 || r.h = 0

/-- `Union(a, b)` (R251), on naturals. -/
def Rect.union (a b : Rect) : Rect :=
  let x := min a.x b.x
  let y := min a.y b.y
  ⟨x, y, max (a.x + a.w) (b.x + b.w) - x, max (a.y + a.h) (b.y + b.h) - y⟩

/-- The tracked rectangle (R250). -/
def State.dirty (s : State) : Rect := ⟨s.drX.toNat, s.drY.toNat, s.drW.toNat, s.drH.toNat⟩

/-- Write the tracked rectangle. -/
def State.setDirty (s : State) (r : Rect) : State :=
  { s with
    drX := BitVec.ofNat 16 r.x
    drY := BitVec.ofNat 16 r.y
    drW := BitVec.ofNat 16 r.w
    drH := BitVec.ofNat 16 r.h }

/-- The body of REPORT_DAMAGE (R252, R253): sums on naturals; an empty tracked rect is replaced wholesale. -/
def reportDamage (r : Rect) (s : State) : Result :=
  if s.display.handle = 0 then .error .noBitmap
  else if s.display.w.toNat < r.x + r.w ∨ s.display.h.toNat < r.y + r.h then .error .damageBounds
  else if s.dirty.isEmpty then .ok (s.setDirty r)
  else .ok (s.setDirty (s.dirty.union r))

/-- REPORT_DAMAGE (R252). -/
def execReportDamage (s : State) : Answer :=
  issue .P s fun s => reportDamage ⟨s.arg0.toNat, s.arg1.toNat, s.arg2.toNat, s.arg3.toNat⟩ s

/-- Clear the tracked rectangle (R254). -/
def State.clearDirty (s : State) : State := { s with drX := 0, drY := 0, drW := 0, drH := 0 }

/-- DR_TAKE (R254): return the tracked rectangle and clear it. -/
def execDrTake (s : State) : Answer :=
  issue .H s fun s =>
    .ok (s.clearDirty.setRes (s.drX.setWidth 32) (s.drY.setWidth 32) (s.drW.setWidth 32) (s.drH.setWidth 32))

end Sys2Proof.Machine
end

