-- ==== Sys2Proof/Machine/Blitter.lean ====
section
/-! DEFINITION. The Display Blitter: CALC_OFFSETS, BLIT_RECT, CURSOR_UPDATE, RENDER (45_blitter.md). -/

namespace Sys2Proof.Machine

/-- One axis of CALC_OFFSETS (R272): half the 32-bit unsigned difference, 0 when it exceeds half the bitmap. -/
def centerOffset (screen bitmap : Half) : Half :=
  let o := (screen.setWidth 32 - bitmap.setWidth 32 : Word).toNat / 2
  if bitmap.toNat / 2 < o then 0 else BitVec.ofNat 16 o

/-- The body of CALC_OFFSETS (R272). -/
def calcOffsets (s : State) : State :=
  if s.display.handle = 0 then { s with offX := 0, offY := 0 }
  else
    { s with
      offX := centerOffset s.screen.w s.display.w
      offY := centerOffset s.screen.h s.display.h }

/-- CALC_OFFSETS (R272). -/
def execCalcOffsets (s : State) : Answer := issue .H s fun s => .ok (calcOffsets s)

/-- `ceil(a / 16)`. -/
def ceilDiv16 (a : Nat) : Nat := (a + 15) / 16

/-- The bitmap's row pitch in words, `WPR` (20_memory.md R82). -/
def State.wpr (s : State) : Nat := ceilDiv16 s.display.w.toNat

/-- `Widen(x, w)` (R273): the first word column and one past the last. -/
def widen (x w : Nat) : Nat × Nat := (x / 16, ceilDiv16 (x + w))

/-- `FetchDisplayWord(index, DISP_HANDLE)` (20_memory.md R83): the word; its trace event is appended beside it. -/
def State.bitmapWord (s : State) (index : Nat) : Half := s.display.words.read index

/-- `SetPixel` for bitmap pixel (col, row), or nothing where it is off the bitmap's columns or the screen
(R271, R274, R275). -/
def State.pixelAt (s : State) (col row : Nat) (colour : Word) : List Output :=
  if s.display.w.toNat ≤ col then []
  else if s.screen.w.toNat ≤ col + s.offX.toNat ∨ s.screen.h.toNat ≤ row + s.offY.toNat then []
  else [.pixel (col + s.offX.toNat) (row + s.offY.toNat) colour]

/-- One bitmap word's turn in BlitRect (R274): fetch it whole, then its 16 pixels left to right, bit 15 first
(20_memory.md R84). -/
def State.blitWord (s : State) (row wc : Nat) : List Output :=
  let v := s.bitmapWord (row * s.wpr + wc)
  .fetch (row * s.wpr + wc) s.display.handle
    :: (List.range 16).flatMap fun k =>
      s.pixelAt (16 * wc + k) row (if v.getLsbD (15 - k) then s.fgColor else s.bgColor)

/-- The indices `lo, lo+1, …` below both `hi` and `limit`. -/
def clampedRange (lo hi limit : Nat) : List Nat := List.range' lo (min hi limit - lo)

/-- `BlitRect(x, y, w, h)` (R274): what it appends to the output trace. Rows from DISP_H and word columns from
WPR on are skipped (R275) by not being listed. -/
def State.blitOutputs (s : State) (r : Rect) : List Output :=
  if s.display.handle = 0 then []
  else
    (clampedRange r.y (r.y + r.h) s.display.h.toNat).flatMap fun row =>
      (clampedRange (widen r.x r.w).1 (widen r.x r.w).2 s.wpr).flatMap fun wc => s.blitWord row wc

/-- The body of BLIT_RECT (R276). -/
def blitRect (r : Rect) (s : State) : State := s.emitOutputs (s.blitOutputs r)

/-- BLIT_RECT (R276). -/
def execBlitRect (s : State) : Answer :=
  issue .H s fun s => .ok (blitRect ⟨s.arg0.toNat, s.arg1.toNat, s.arg2.toNat, s.arg3.toNat⟩ s)

/-- Row `r` of CURSOR_GLYPH (20_memory.md R86). -/
def State.glyphRow (s : State) (r : Nat) : Half := s.cfg.cursorGlyph.read r

/-- `Stamp(cx, cy)` (R278): set glyph bits drawn in CURSOR_COLOR, clear ones transparent. -/
def State.stampOutputs (s : State) (cx cy : Nat) : List Output :=
  (List.range 16).flatMap fun r =>
    (List.range 16).flatMap fun c =>
      if (s.glyphRow r).getLsbD (15 - c) && decide (cy + r < s.display.h.toNat) then
        s.pixelAt (cx + c) (cy + r) s.cursorColor
      else []

/-- What CURSOR_UPDATE draws (R277): the 16 × 16 band at the previous position restored, then the stamp. -/
def State.cursorOutputs (s : State) : List Output :=
  s.blitOutputs ⟨s.curPrevX.toNat, s.curPrevY.toNat, 16, 16⟩
    ++ s.stampOutputs s.curNewX.toNat s.curNewY.toNat

/-- The body of CURSOR_UPDATE (R277). -/
def cursorUpdate (s : State) : State :=
  if s.display.handle = 0 then s
  else { s.emitOutputs s.cursorOutputs with curPrevX := s.curNewX, curPrevY := s.curNewY }

/-- CURSOR_UPDATE (R277). -/
def execCursorUpdate (s : State) : Answer := issue .H s fun s => .ok (cursorUpdate s)

/-- The body of RENDER (R279, R280): nothing without damage; else take the rect, copy it, update the cursor. -/
def renderPass (s : State) : State :=
  if s.dirty.isEmpty then s else cursorUpdate (blitRect s.dirty s.clearDirty)

/-- RENDER (R280). -/
def execRender (s : State) : Answer := issue .H s fun s => .ok (renderPass s)

end Sys2Proof.Machine
end

