-- ==== Sys2Proof/Machine/Codec.lean ====
section
/-! DEFINITION. The Event Codec's producer side: timestamp frames, EmitGroup, EMIT, and the reference parse of an
event stream (40_event_codec.md §1–§4, R152). -/

namespace Sys2Proof.Machine

/-- A logical event before packing: type and parameter, naturals (R140). -/
structure Event where
  type : Nat
  param : Nat
  deriving DecidableEq, Repr

/-- `Pack(t, p)` for t ≤ 15 and p ≤ 4095 (R131). -/
def pack (t p : Nat) : Half := packFields (BitVec.ofNat 4 t) (BitVec.ofNat 12 p)

/-- `AbsTime(s)` (R134): seconds since 1901-01-01, modulo 2^32. -/
def absTime (s : Word) : Word := s + 2177452800#32

/-- The three words of an absolute frame (R133, 30_encoding.md R104): marker, high half, low half. -/
def absFrame (a : Word) : List Half := [pack 5 0, a.extractLsb' 16 16, a.extractLsb' 0 16]

/-- `TsFrame(now, lt, tv)` (R133, R135, R136); an absolute frame takes one wall-clock draw. -/
def tsFrame (now lt : Word) (tv : Bool) (c : Clock) : List Half × Clock :=
  if tv = false then ([pack 0 0], c)
  else if (now - lt).toNat ≤ 4095 then ([pack 0 (now - lt).toNat], c)
  else (absFrame (absTime c.sampleWall.1), c.sampleWall.2)

/-- The codec's registers and the draws left, while a group is being framed (R140). -/
structure Framing where
  words : List Half
  lastTick : Word
  tsValid : Bool
  evtCount : Word
  clock : Clock
  deriving DecidableEq, Repr

/-- One turn of EmitGroup's second loop: draw a tick, frame it, append the event's word (R140). -/
def Framing.add (f : Framing) (e : Event) : Framing :=
  let now := f.clock.sampleTick.1
  let framed := tsFrame now f.lastTick f.tsValid f.clock.sampleTick.2
  { words := f.words ++ framed.1 ++ [pack e.type e.param]
    lastTick := now
    tsValid := true
    evtCount := f.evtCount + 1
    clock := framed.2 }

/-- The framing of a list of events, from the codec's registers (R140). -/
def State.frameEvents (s : State) (events : List Event) : Framing :=
  events.foldl Framing.add ⟨[], s.lastTick, s.tsValid, s.evtCount, s.clock⟩

/-- A type or a parameter that does not fit its field (R140). -/
def Event.outOfRange (e : Event) : Bool := decide (15 < e.type) || decide (4095 < e.param)

/-- `EmitGroup(events)` (R140, R141), the only way a word enters the queue. -/
def emitGroup (events : List Event) (s : State) : Result :=
  if events = [] then .ok s
  else if s.inSig = 0 then .error .noInputSignal
  else if events.any Event.outOfRange then .error .paramRange
  else
    let f := s.frameEvents events
    if s.cfg.qdepth < s.qCount + f.words.length then .ok { s with qOvf := true, clock := f.clock }
    else .ok { s.enqueueAll f.words with
      lastTick := f.lastTick, tsValid := f.tsValid, evtCount := f.evtCount, clock := f.clock }

/-- The body of EMIT (R143). -/
def emit (type param : Word) (s : State) : Result :=
  if type ≠ 1 ∧ type ≠ 3 ∧ type ≠ 4 then
    if s.inSig = 0 then .error .noInputSignal else .error .paramRange
  else emitGroup [⟨type.toNat, param.toNat⟩] s

/-- EMIT (R143). -/
def execEmit (s : State) : Answer := issue .H s fun s => emit s.arg0 s.arg1 s

/-- A timestamp frame as a consumer reads it (R152). -/
inductive Frame where
  | delta (ms : BitVec 12)
  | abs (seconds : Word)
  deriving DecidableEq, Repr

/-- One parsed logical event: frame, type, parameter (R152). -/
structure Parsed where
  frame : Frame
  type : BitVec 4
  param : BitVec 12
  deriving DecidableEq, Repr

/-- Whether a word's type is one of an event word, 1, 3 or 4 (R152). -/
def isEventWord (w : Half) : Bool := eventType w = 1 || eventType w = 3 || eventType w = 4

/-- `DecodeEvents(ws)` (R152) with the index of the first word, which the error reports. -/
def decodeEventsFrom : Nat → List Half → Except Nat (List Parsed)
  | _, [] => .ok []
  | i, [w] => if eventType w = 0 then .error (i + 1) else .error i
  | i, [w, e] =>
    if eventType w = 0 then
      if isEventWord e then .ok [⟨.delta (eventParam w), eventType e, eventParam e⟩] else .error (i + 1)
    else .error i
  | i, [w, e, f] =>
    if eventType w = 0 then
      if isEventWord e then
        (decodeEventsFrom (i + 2) [f]).map (⟨.delta (eventParam w), eventType e, eventParam e⟩ :: ·)
      else .error (i + 1)
    else if eventType w = 5 then .error (i + 3)
    else .error i
  | i, w :: e :: f :: g :: rest =>
    if eventType w = 0 then
      if isEventWord e then
        (decodeEventsFrom (i + 2) (f :: g :: rest)).map (⟨.delta (eventParam w), eventType e, eventParam e⟩ :: ·)
      else .error (i + 1)
    else if eventType w = 5 then
      if isEventWord g then
        (decodeEventsFrom (i + 4) rest).map (⟨.abs (e ++ f), eventType g, eventParam g⟩ :: ·)
      else .error (i + 3)
    else .error i

/-- `DecodeEvents(ws)` (R152): the parse, or the index of the word where it fails. -/
def decodeEvents (ws : List Half) : Except Nat (List Parsed) := decodeEventsFrom 0 ws

end Sys2Proof.Machine
end

