-- ==== Sys2Proof/Machine/Keyboard.lean ====
section
/-! DEFINITION. The Keyboard Decoder: KEY_RAW and KEY_COOKED (41_keyboard.md). -/

namespace Sys2Proof.Machine

/-- Event types of 30_encoding.md R101 and the synthetic parameters of 00_scope.md R9. -/
def downEvent (p : Nat) : Event := ⟨3, p⟩
def upEvent (p : Nat) : Event := ⟨4, p⟩
def ctrlParam : Nat := 138
def metaParam : Nat := 136
def capsParam : Nat := 139

/-- `Pair(c)` (R182). -/
def keyPair (c : Byte) : List Event := [downEvent c.toNat, upEvent c.toNat]

/-- A table lookup's events: entry 0 is "no character" (R184). -/
def tableEvents (entry : Byte) : List Event := if entry = 0 then [] else keyPair entry

/-- `IsLetter(b)` (R172): 'a'–'z' or 'A'–'Z'. -/
def isLetter (b : Byte) : Bool :=
  (decide (97 ≤ b.toNat) && decide (b.toNat ≤ 122)) || (decide (65 ≤ b.toNat) && decide (b.toNat ≤ 90))

/-- A modifier is held iff a bit of its mask is set (R171). -/
def held (mods mask : Byte) : Bool := mods &&& mask != 0

/-- One event whose type follows the caps-lock toggle: DOWN when engaged, UP when not (R173, R175). -/
def toggleEvent (caps : Bool) (p : Nat) : Event := if caps then downEvent p else upEvent p

/-- The alt path (R177): BASE_TABLE's character substituted through ALT_TABLE; outside the table, nothing. -/
def altEvents (cfg : Config) (b : Byte) : List Event :=
  if 1 ≤ b.toNat ∧ b.toNat ≤ 127 then tableEvents (cfg.altTable.read b.toNat) else []

/-- The four-event bracket of control on a letter (R178). -/
def ctrlBracket (b : Byte) : List Event :=
  [downEvent ctrlParam, downEvent b.toNat, upEvent b.toNat, upEvent ctrlParam]

/-- Scan codes 0–127 that are not caps lock (R176–R181), in the order of the checks: meta, alt, control, shift,
plain. -/
def tableKeyEvents (cfg : Config) (scan : Nat) (mods : Byte) : List Event :=
  let b := cfg.baseTable.read scan
  if held mods cfg.metaMask then []
  else if held mods cfg.altMask then altEvents cfg b
  else if held mods cfg.ctrlMask && isLetter b then ctrlBracket b
  else if held mods cfg.ctrlMask && cfg.ctrlNonletter == .ignore then []
  else if held mods cfg.shiftMask then tableEvents (cfg.shiftTable.read scan)
  else tableEvents b

/-- The events of one raw key (R172–R175), given CAPS before it. -/
def rawKeyEvents (cfg : Config) (undecoded caps : Bool) (scan : Nat) (mods : Byte) : List Event :=
  if 255 < scan then []
  else if scan = cfg.capslockScan.toNat then [toggleEvent (flipBit caps) capsParam]
  else if 127 < scan then (if undecoded then [toggleEvent caps scan] else [])
  else tableKeyEvents cfg scan mods

/-- CAPS after one raw key (R173). -/
def rawKeyCaps (cfg : Config) (caps : Bool) (scan : Nat) : Bool :=
  if scan = cfg.capslockScan.toNat then flipBit caps else caps

/-- The body of KEY_RAW (R172), which exists only in a RAW block (R170, 30_encoding.md R112). -/
def keyRaw (scan mods : Word) (s : State) : Result :=
  if s.cfg.kbdMode ≠ .raw then .error .illegalCmd
  else
    let m : Byte := mods.setWidth 8
    emitGroup (rawKeyEvents s.cfg s.undecoded s.caps scan.toNat m)
      { s with modState := m, caps := rawKeyCaps s.cfg s.caps scan.toNat }

/-- The events of one cooked key (R185), in strict nesting order. -/
def cookedKeyEvents (b : Nat) (ctrl mta : Bool) : List Event :=
  (if ctrl then [downEvent ctrlParam] else []) ++ (if mta then [downEvent metaParam] else [])
    ++ [downEvent b, upEvent b]
    ++ (if mta then [upEvent metaParam] else []) ++ (if ctrl then [upEvent ctrlParam] else [])

/-- The body of KEY_COOKED (R185), which exists only in a COOKED block. -/
def keyCooked (b f : Word) (s : State) : Result :=
  if s.cfg.kbdMode ≠ .cooked then .error .illegalCmd
  else if b = 0 ∨ 255 < b.toNat ∨ 3 < f.toNat then .ok s
  else emitGroup (cookedKeyEvents b.toNat (f.getLsbD 0) (f.getLsbD 1)) s

/-- KEY_RAW (R172). -/
def execKeyRaw (s : State) : Answer := issue .H s fun s => keyRaw s.arg0 s.arg1 s

/-- KEY_COOKED (R185). -/
def execKeyCooked (s : State) : Answer := issue .H s fun s => keyCooked s.arg0 s.arg1 s

end Sys2Proof.Machine
end

