-- ==== Sys2Proof/Machine/Mouse.lean ====
section
/-! DEFINITION. The Mouse Translator: MOUSE_BUTTONS, MOUSE_MOTION, MOUSE_POLL (42_mouse.md). -/

namespace Sys2Proof.Machine

/-- The default `BUTTON_CODE` of button index 0, 1, 2, masks 1, 2, 4 (R210). -/
def defaultButtonCode (i : Nat) : Byte :=
  match i with
  | 0 => 130
  | 1 => 128
  | _ => 129

/-- `BUTTON_CODE(m_i, mods)` of button index i (R210, R212): the listed code, else the default. -/
def buttonCode (cfg : Config) (i : Nat) (mods : Byte) : Byte :=
  (cfg.buttonCodes.lookup (256 * i + mods.toNat)).getD (defaultButtonCode i)

/-- One button's turn in MOUSE_BUTTONS (R211): its new state and its event; the code is latched at press and
replayed at release. -/
def Button.sample (b : Button) (nowDown : Bool) (pressCode : Byte) : Button × List Event :=
  if nowDown && !b.down then (⟨true, pressCode⟩, [⟨3, pressCode.toNat⟩])
  else if !nowDown && b.down then ({ b with down := false }, [⟨4, b.code.toNat⟩])
  else (b, [])

/-- The events of MOUSE_BUTTONS (R211, R215): masks 1, 2, 4 in this order; other bits are ignored. -/
def State.buttonEvents (s : State) (mask : Word) : List Event :=
  (s.btn0.sample (mask.getLsbD 0) (buttonCode s.cfg 0 s.modState)).2
    ++ (s.btn1.sample (mask.getLsbD 1) (buttonCode s.cfg 1 s.modState)).2
    ++ (s.btn2.sample (mask.getLsbD 2) (buttonCode s.cfg 2 s.modState)).2

/-- The button registers after MOUSE_BUTTONS (R211). -/
def State.sampleButtons (s : State) (mask : Word) : State :=
  { s with
    btn0 := (s.btn0.sample (mask.getLsbD 0) (buttonCode s.cfg 0 s.modState)).1
    btn1 := (s.btn1.sample (mask.getLsbD 1) (buttonCode s.cfg 1 s.modState)).1
    btn2 := (s.btn2.sample (mask.getLsbD 2) (buttonCode s.cfg 2 s.modState)).1 }

/-- The body of MOUSE_BUTTONS (R211). -/
def mouseButtons (mask : Word) (s : State) : Result := emitGroup (s.buttonEvents mask) (s.sampleButtons mask)

/-- Whether MOUSE_MOTION reports the position (R213). -/
def State.motionReported (s : State) (x y : Word) : Bool :=
  s.cfg.motionPolicy == .everyPoll || !s.mposValid || x != s.lastMx.setWidth 32 || y != s.lastMy.setWidth 32

/-- The last reported position, once the motion words are out (R213, R43). -/
def State.reportPosition (s : State) (x y : Word) : State :=
  { s with lastMx := x.setWidth 16, lastMy := y.setWidth 16, mposValid := true }

/-- The position the next render draws the cursor at (R44). -/
def State.moveCursor (s : State) (x y : Word) : State :=
  { s with curNewX := x.setWidth 16, curNewY := y.setWidth 16 }

/-- The events of MOUSE_MOTION (R213): raw x, then raw y, where the position is reported. -/
def State.motionEvents (s : State) (x y : Word) : List Event :=
  if s.motionReported x y then [⟨1, x.toNat⟩, ⟨1, y.toNat⟩] else []

/-- The position registers after MOUSE_MOTION (R213). -/
def State.samplePosition (s : State) (x y : Word) : State :=
  if s.motionReported x y then (s.reportPosition x y).moveCursor x y else s.moveCursor x y

/-- The body of MOUSE_MOTION (R213). -/
def mouseMotion (x y : Word) (s : State) : Result := emitGroup (s.motionEvents x y) (s.samplePosition x y)

/-- The body of MOUSE_POLL (R214): motion, then buttons, one command. Its words, motion's and then the buttons', are
queued or dropped as one (43_input_queue.md R237, 60_exceptions.md R364; log 25); where they fit, this is the two
EmitGroup calls one after the other (`emitGroup_append`). -/
def mousePoll (x y mask : Word) (s : State) : Result :=
  emitGroup (s.motionEvents x y ++ s.buttonEvents mask) ((s.samplePosition x y).sampleButtons mask)

/-- MOUSE_BUTTONS (R211). -/
def execMouseButtons (s : State) : Answer := issue .H s fun s => mouseButtons s.arg0 s

/-- MOUSE_MOTION (R213). -/
def execMouseMotion (s : State) : Answer := issue .H s fun s => mouseMotion s.arg0 s.arg1 s

/-- MOUSE_POLL (R214). -/
def execMousePoll (s : State) : Answer := issue .H s fun s => mousePoll s.arg0 s.arg1 s.arg2 s

end Sys2Proof.Machine
end

