-- ==== Sys2Proof/Machine/Sequencer.lean ====
section
/-! DEFINITION. The frame sequencer and the scheduled wake: FRAME, SET_WAKE, CHECK_WAKE, TERMINATE and the
internal steps (46_sequencer.md). -/

namespace Sys2Proof.Machine

/-- FRAME (R313). -/
def execFrame (s : State) : Answer := issue .H s fun s => .ok { s with seqPhase := .offsets }

/-- No request outstanding (R51). -/
def State.clearWake (s : State) : State := { s with swPending := false, swSignal := 0, swTick := 0 }

/-- The body of SET_WAKE (R321): a null target cancels, any other replaces. -/
def setWake (signal tick : Word) (s : State) : State :=
  if signal = 0 then s.clearWake else { s with swPending := true, swSignal := signal, swTick := tick }

/-- SET_WAKE (R321). -/
def execSetWake (s : State) : Answer := issue .P s fun s => .ok (setWake s.arg0 s.arg1 s)

/-- The body of CHECK_WAKE (R322): a tick is drawn only when a wake is pending; the comparison is unsigned and
does not wrap. -/
def checkWake (s : State) : State :=
  if s.swPending then
    let now := s.clock.sampleTick.1
    let t := { s with clock := s.clock.sampleTick.2 }
    if t.swTick ≤ now then (t.signal .timer t.swSignal).clearWake else t
  else s

/-- CHECK_WAKE (R322). -/
def execCheckWake (s : State) : Answer := issue .H s fun s => .ok (checkWake s)

/-- The body of TERMINATE (R323). -/
def terminate (s : State) : State :=
  { s with termFlag := true, seqPhase := if s.seqPhase = .run then .termchk else .terminated }

/-- TERMINATE (R323). -/
def execTerminate (s : State) : Answer := issue .P s fun s => .ok (terminate s)

/-- Phase OFFSETS (R314). -/
def offsetsStep (s : State) : State := { calcOffsets s with seqPhase := .poll }

/-- One keyboard report's sub-step (R315). -/
def keySubStep (k : KeyReport) (s : State) : Result :=
  match s.cfg.kbdMode with
  | .raw => keyRaw k.a k.b s
  | .cooked => keyCooked k.a k.b s

/-- The keyboard sub-steps in host order: the state the last one that stands leaves, and the fault that stopped
them, if any (R315). -/
def keySubSteps : List KeyReport → State → State × Option FaultCode
  | [], s => (s, none)
  | k :: ks, s =>
    match keySubStep k s with
    | .ok t => keySubSteps ks t
    | .error c => (s, some c)

/-- Phase POLL (R315): the keyboard reports, then the mouse sample. A faulting sub-step cancels its own writes
only; the reports sampled are gone from the port either way (log 17). -/
def pollStep (s : State) : State :=
  match keySubSteps s.kbd { s with kbd := [] } with
  | (t, some c) => t.takeFault c
  | (t, none) =>
    match mousePoll t.mouse.x t.mouse.y t.mouse.btn t with
    | .ok u => { u with seqPhase := .wake }
    | .error c => t.takeFault c

/-- Phase WAKE (R316). -/
def wakeStep (s : State) : State :=
  { (checkWake s).emitOutputs [.runRequest s.cyclesPerFrame] with seqPhase := .run }

/-- RunDone (R311, R317): the peer's answer ends phase RUN. -/
def runDoneStep (s : State) : State := { s with seqPhase := .termchk }

/-- Phase TERMCHK (R318). -/
def termchkStep (s : State) : State := { s with seqPhase := if s.termFlag then .terminated else .render }

/-- Phase RENDER (R319): the render pass, then the frame delay if one is configured. -/
def renderStep (s : State) : State :=
  let t := renderPass s
  if t.vsync || t.frameDelay == 0 then { t with seqPhase := .idle }
  else { t with delayStart := t.clock.sampleTick.1, clock := t.clock.sampleTick.2, seqPhase := .delay }

/-- Phase DELAY (R320): wait until FRAME_DELAY milliseconds have passed, with 32-bit wrap-around. -/
def delayStep (s : State) : State :=
  let now := s.clock.sampleTick.1
  let t := { s with clock := s.clock.sampleTick.2 }
  if t.frameDelay ≤ now - t.delayStart then { t with seqPhase := .idle } else t

end Sys2Proof.Machine
end

