-- ==== Sys2Proof/Machine/Dispatch.lean ====
section
/-! DEFINITION. The dispatch: what each instruction does at the live port (46_sequencer.md R312). -/

namespace Sys2Proof.Machine

def exec (i : Instr) (s : State) : Host.Outcome State Fault Refusal :=
  match i with
  | .nop => Sys2Proof.Machine.execNop s
  | .frame => Sys2Proof.Machine.execFrame s
  | .calcOffsets => Sys2Proof.Machine.execCalcOffsets s
  | .checkWake => Sys2Proof.Machine.execCheckWake s
  | .csrRead => Sys2Proof.Machine.execCsrRead s
  | .csrWrite => Sys2Proof.Machine.execCsrWrite s
  | .emit => Sys2Proof.Machine.execEmit s
  | .decWord => Sys2Proof.Machine.execDecWord s
  | .decReset => Sys2Proof.Machine.execDecReset s
  | .keyRaw => Sys2Proof.Machine.execKeyRaw s
  | .keyCooked => Sys2Proof.Machine.execKeyCooked s
  | .mouseMotion => Sys2Proof.Machine.execMouseMotion s
  | .mouseButtons => Sys2Proof.Machine.execMouseButtons s
  | .mousePoll => Sys2Proof.Machine.execMousePoll s
  | .setInputSignal => Sys2Proof.Machine.execSetInputSignal s
  | .qPop => Sys2Proof.Machine.execQPop s
  | .reportDamage => Sys2Proof.Machine.execReportDamage s
  | .setWake => Sys2Proof.Machine.execSetWake s
  | .terminate => Sys2Proof.Machine.execTerminate s
  | .drTake => Sys2Proof.Machine.execDrTake s
  | .blitRect => Sys2Proof.Machine.execBlitRect s
  | .cursorUpdate => Sys2Proof.Machine.execCursorUpdate s
  | .render => Sys2Proof.Machine.execRender s
  | .tsDelta p => Sys2Proof.Machine.execTsDelta p s
  | .coord p => Sys2Proof.Machine.execCoord p s
  | .down p => Sys2Proof.Machine.execDown p s
  | .up p => Sys2Proof.Machine.execUp p s
  | .tsAbs p => Sys2Proof.Machine.execTsAbs p s
  | .reservedType2 p => Sys2Proof.Machine.execReservedType2 p s
  | .reservedType67 t p => Sys2Proof.Machine.execReservedType67 t p s
  | .reservedType815 t p => Sys2Proof.Machine.execReservedType815 t p s

end Sys2Proof.Machine
end

