-- ==== Sys2Proof/Machine/Block.lean ====
section
/-! DEFINITION. The block's transitions and the outside world's moves, which the step calls (46_sequencer.md R311,
R312). -/

namespace Sys2Proof.Machine

/-- Decode and execute the CMD word that waits at port `n`, the live port (R312; 30_encoding.md R108, R112). -/
def runCommand (n : PortName) (s : State) : Answer :=
  match decodeCommand (s.port n).cmd with
  | .ok i => exec i (s.accept n)
  | .error _ => issueIllegal (s.accept n)

/-- The command at port `n` if one waits there; else the block waits too. -/
def acceptAt (n : PortName) (s : State) : Answer := if (s.port n).waiting then runCommand n s else .next s

/-- The block's own transition (R311): an internal step in the phases that have one, else the command waiting at
the live port. -/
def blockStep (s : State) : Answer :=
  match s.seqPhase with
  | .offsets => .next (offsetsStep s)
  | .poll => .next (pollStep s)
  | .wake => .next (wakeStep s)
  | .termchk => .next (termchkStep s)
  | .render => .next (renderStep s)
  | .delay => .next (delayStep s)
  | .run => acceptAt .peer s
  | .idle | .terminated | .faulted => acceptAt .host s

/-- The phases in which the sequencer takes internal steps (R311). -/
def Phase.internal : Phase → Bool
  | .offsets | .poll | .wake | .termchk | .render | .delay => true
  | .idle | .run | .terminated | .faulted => false

/-- When a move of the outside world can happen (log 6, log 7, log 18, log 19): a command is presented at a port
where none waits, RunDone comes in RUN once no peer command waits (R66, R317), and the bitmap changes only while
the peer runs or between host commands (R64). -/
def Move.ready (s : State) : Move → Bool
  | .hostCommand _ => !s.host.waiting
  | .peerCommand _ => !s.peer.waiting
  | .runDone => s.seqPhase = .run && !s.peer.waiting
  | .display _ _ _ _ => !s.seqPhase.internal
  | .block | .reset | .ticks _ | .walls _ | .keys _ | .mouse _ | .screen _ => true

/-- What a move does. -/
def Move.apply (s : State) : Move → Answer
  | .block => blockStep s
  | .hostCommand c => .next (s.setPort .host (·.present c))
  | .peerCommand c => .next (s.setPort .peer (·.present c))
  | .runDone => .next (runDoneStep s)
  | .reset => .next s.assertReset
  | .ticks l => .next { s with clock := { s.clock with ticks := s.clock.ticks ++ l } }
  | .walls l => .next { s with clock := { s.clock with walls := s.clock.walls ++ l } }
  | .keys l => .next { s with kbd := s.kbd ++ l }
  | .mouse m => .next { s with mouse := m }
  | .screen z => .next { s with screen := z }
  | .display h w ht l => .next { s with display := ⟨h, w, ht, Cells.ofList l⟩ }

/-- One step: the outside world's next move if there is one that can happen now; else the block's. A move that
cannot happen yet stays at the head of the schedule (log 6). -/
def advance (s : State) : Answer :=
  match s.schedule with
  | [] => blockStep s
  | m :: rest => if m.ready s then m.apply { s with schedule := rest } else blockStep s

/-- Make the block able to accept a host command: IDLE, and with it no fault code (10_state.md R70). -/
def State.toIdle (s : State) : State := { s with seqPhase := .idle, faultCode := 0 }

/-- Present CMD at the host port as it stands, the block's move being the next. -/
def State.presentCmd (s : State) (cmd : Word) : State :=
  { s with
    host := { s.host with cmd := cmd, waiting := true }
    schedule := .block :: s.schedule }

/-- Place a command word where the next step fetches it: the host port's CMD. -/
def State.placeCommand (s : State) (cmd : Word) : State := s.toIdle.presentCmd cmd

/-- Place an event word where the next step runs it: DEC_WORD at the host port with the word in ARG0, the stream
decoder in phase TAG (log 8). -/
def State.placeEvent (s : State) (w : Half) : State :=
  { s with decPhase := .tag, host := { s.host with arg0 := w.setWidth 32 } }.placeCommand 0x11

end Sys2Proof.Machine
end

