-- ==== Sys2Proof/Machine/Step.lean ====
section
/-! DEFINITION. One step of the machine, and the placing of an instruction where the next step fetches it. -/

namespace Sys2Proof.Machine

/-- One transition (46_sequencer.md R311): the block's, or a move of the outside world. -/
def step (s : State) : Host.Outcome State Fault Refusal := advance s

/-- `s` with the instruction word placed so that the very next step runs it (log 9): a 16-bit row is an event word,
any other a CMD word. -/
def State.withFetchWord (s : State) (nbits w : Nat) : State :=
  if nbits = 16 then s.placeEvent (BitVec.ofNat 16 w) else s.placeCommand (BitVec.ofNat 32 w)

end Sys2Proof.Machine
end

