-- ==== Sys2Proof/Safety.lean ====
section
/-! DEFINITION. What the statements call legal parameters, the invariant of 10_state.md R70, a well-framed
stream, and which phases accept a class. -/

namespace Sys2Proof

/-- The constraints 00_scope.md R10 puts on the parameters: QDEPTH ≥ 16, the masks pairwise disjoint, tables of
128 entries, a glyph of 16 rows, all in canonical form. -/
abbrev Config.Legal (c : Config) : Prop :=
  16 ≤ c.qdepth
  ∧ c.shiftMask &&& c.ctrlMask = 0 ∧ c.shiftMask &&& c.altMask = 0 ∧ c.shiftMask &&& c.metaMask = 0
  ∧ c.ctrlMask &&& c.altMask = 0 ∧ c.ctrlMask &&& c.metaMask = 0 ∧ c.altMask &&& c.metaMask = 0
  ∧ c.baseTable.wf = true ∧ c.shiftTable.wf = true ∧ c.altTable.wf = true ∧ c.cursorGlyph.wf = true
  ∧ (∀ p ∈ c.baseTable, p.1 < 128) ∧ (∀ p ∈ c.shiftTable, p.1 < 128) ∧ (∀ p ∈ c.altTable, p.1 < 128)
  ∧ (∀ p ∈ c.cursorGlyph, p.1 < 16)

namespace Machine

/-- The queue's registers are in range and its storage canonical (R45, R70). -/
abbrev State.QueueInv (s : State) : Prop :=
  s.qHead < s.cfg.qdepth ∧ s.qCount ≤ s.cfg.qdepth ∧ s.q.wf = true

/-- FAULT_CODE is nonzero exactly in FAULTED, and is a code of R361 (R70). -/
abbrev State.FaultInv (s : State) : Prop :=
  (s.faultCode ≠ 0 ↔ s.seqPhase = .faulted) ∧ s.faultCode.toNat ≤ 6

/-- The tracked rectangle's right and bottom edges fit 16 bits (R70). -/
abbrev State.DirtyInv (s : State) : Prop :=
  s.drX.toNat + s.drW.toNat ≤ 65535 ∧ s.drY.toNat + s.drH.toNat ≤ 65535

/-- The mouse positions fit the parameter field (R70). -/
abbrev State.MouseInv (s : State) : Prop :=
  s.lastMx.toNat ≤ 4095 ∧ s.lastMy.toNat ≤ 4095 ∧ s.curNewX.toNat ≤ 4095 ∧ s.curNewY.toNat ≤ 4095

/-- A scheduled wake has a target exactly when one is pending (R70, R321). -/
abbrev State.WakeInv (s : State) : Prop :=
  (s.swPending = false → s.swSignal = 0 ∧ s.swTick = 0) ∧ (s.swPending = true → s.swSignal ≠ 0)

/-- The reserved bits of CTRL are 0 (R56), and the bitmap's storage is canonical. -/
abbrev State.StorageInv (s : State) : Prop := s.ctrl &&& ctrlMask = s.ctrl ∧ s.display.words.wf = true

/-- The invariant of 10_state.md R70, with the storage's canonical form and CTRL's reserved bits. -/
abbrev State.Inv (s : State) : Prop :=
  16 ≤ s.cfg.qdepth ∧ s.QueueInv ∧ s.FaultInv ∧ s.DirtyInv ∧ s.MouseInv ∧ s.WakeInv ∧ s.StorageInv

/-- Every notification in the output trace has a nonzero id (60_exceptions.md R370). -/
abbrev State.SignalsNamed (s : State) : Prop := ∀ k id, Output.signal k id ∈ s.trace → id ≠ 0

/-- The phases in which a command of a class is executed rather than left waiting, ignored or faulted
(46_sequencer.md R312). -/
def Phase.accepts : Phase → CmdClass → Bool
  | .idle, _ => true
  | .run, c => c != .H
  | .terminated, c => c == .A
  | .faulted, c => c == .A
  | _, _ => false

/-- A run is safe when it never enters FAULTED: no contract of the block was broken (60_exceptions.md R360). -/
def State.Safe (s : State) : Prop := s.seqPhase ≠ .faulted

/-- A framed event's words (30_encoding.md R105): a frame, then the event's word. -/
def Parsed.eventWord (p : Parsed) : Half := packFields p.type p.param

end Machine
end Sys2Proof
end

