-- ==== Sys2Proof/Certificates/Slice0/Obligations.lean ====
section
/-! DEFINITION. The statements for the provers, and the words they share. -/

open Sys2Proof Sys2Proof.Machine

namespace Sys2Proof.Claims

/-- The fault transition as a state (60_exceptions.md R362). -/
def faultedWith (s : State) (code : Byte) : State :=
  { s with faultCode := if s.faultCode = 0 then code else s.faultCode, seqPhase := .faulted }

/-- A non-empty group of legal events, with a signal registered, queued or dropped whole (40_event_codec.md R140,
R141); what its frames are is `GroupFramesEachEvent`, what enqueuing does `EnqueuedWordsJoinTheHeldWords` and
`InputReadySignalsOnTransition`. -/
def queued (events : List Event) (s : State) : State :=
  let f := s.frameEvents events
  if s.cfg.qdepth < s.qCount + f.words.length then { s with qOvf := true, clock := f.clock }
  else { s.enqueueAll f.words with
    lastTick := f.lastTick, tsValid := f.tsValid, evtCount := f.evtCount, clock := f.clock }

/-- A command that changes `s` to `t` and emits `events`: no event needs no signal; else NO_INPUT_SIGNAL when none
is registered (60_exceptions.md R362, R363). -/
def groupAfter (s t : State) (events : List Event) : State :=
  if events = [] then t
  else if t.inSig = 0 then faultedWith s 1
  else queued events t

/-- The opcode map of 30_encoding.md R110, as the table lists it. -/
def opcodeMap : List (Nat × Instr) :=
  [(0x00, .nop), (0x01, .frame), (0x02, .calcOffsets), (0x03, .checkWake), (0x08, .csrRead), (0x09, .csrWrite),
   (0x10, .emit), (0x11, .decWord), (0x12, .decReset), (0x18, .keyRaw), (0x19, .keyCooked), (0x1C, .mouseMotion)]
  ++ [(0x1D, .mouseButtons), (0x1E, .mousePoll), (0x20, .setInputSignal), (0x21, .qPop), (0x22, .reportDamage),
      (0x23, .setWake), (0x24, .terminate), (0x30, .drTake), (0x31, .blitRect), (0x32, .cursorUpdate), (0x33, .render)]

/-- One bit's weight. -/
def bit (b : Bool) (n : Nat) : Nat := if b then 2 ^ n else 0

/-- STATUS (10_state.md R60), each field at the weight of its lowest bit. -/
def statusBits (s : State) : Nat :=
  bit s.qOvf 0 + bit s.decErr 1 + bit s.tsValid 2 + bit s.caps 3 + bit s.swPending 4 + bit (s.inSig != 0) 5
    + bit s.mposValid 6 + bit s.termFlag 7 + 2 ^ 8 * s.seqPhase.code.toNat

/-- The CSR map of 47_control.md R340: index and value, each field at the weight of its lowest bit. -/
def csrMap (s : State) : List (Nat × Nat) :=
  [(0x00, statusBits s),
   (0x01, bit s.undecoded 0 + bit s.vsync 1), (0x02, s.faultCode.toNat), (0x03, s.cyclesPerFrame.toNat),
   (0x04, s.frameDelay.toNat), (0x05, s.fgColor.toNat), (0x06, s.bgColor.toNat), (0x07, s.cursorColor.toNat)]
  ++ [(0x08, s.lastTick.toNat), (0x09, s.evtCount.toNat), (0x0A, s.qCount), (0x0B, s.qHead), (0x0C, s.cfg.qdepth),
      (0x0D, s.inSig.toNat), (0x0E, s.modState.toNat),
      (0x0F, bit s.btn0.down 0 + bit s.btn1.down 1 + bit s.btn2.down 2 + 2 ^ 8 * s.btn0.code.toNat
        + 2 ^ 16 * s.btn1.code.toNat + 2 ^ 24 * s.btn2.code.toNat)]
  ++ [(0x10, s.lastMx.toNat + 2 ^ 16 * s.lastMy.toNat), (0x11, s.curNewX.toNat + 2 ^ 16 * s.curNewY.toNat),
      (0x12, s.curPrevX.toNat + 2 ^ 16 * s.curPrevY.toNat), (0x13, s.drX.toNat), (0x14, s.drY.toNat),
      (0x15, s.drW.toNat), (0x16, s.drH.toNat), (0x17, s.offX.toNat + 2 ^ 16 * s.offY.toNat)]
  ++ [(0x18, s.swSignal.toNat), (0x19, s.swTick.toNat),
      (0x1A, s.decPhase.code.toNat + bit s.decXy 2 + 2 ^ 16 * s.decHi.toNat), (0x1B, s.delayStart.toNat)]

/-- One button's turn of 42_mouse.md R211: whether it is down now, its latched code, and its event. -/
def buttonAfter (b : Button) (now : Bool) (code : Byte) : Button :=
  if now ∧ b.down = false then ⟨true, code⟩ else if now = false ∧ b.down then ⟨false, b.code⟩ else b

def buttonEvents (b : Button) (now : Bool) (code : Byte) : List Event :=
  if now ∧ b.down = false then [⟨3, code.toNat⟩] else if now = false ∧ b.down then [⟨4, b.code.toNat⟩] else []

/-- A button mask's bit: mask 1, 2 or 4. -/
def maskBit (mask : Word) (m : Nat) : Bool := mask.toNat / m % 2 = 1

/-- The events of a mask (R211), in the order mask 1, 2, 4. -/
def maskEvents (mask : Word) (s : State) : List Event :=
  buttonEvents s.btn0 (maskBit mask 1) (buttonCode s.cfg 0 s.modState)
  ++ buttonEvents s.btn1 (maskBit mask 2) (buttonCode s.cfg 1 s.modState)
  ++ buttonEvents s.btn2 (maskBit mask 4) (buttonCode s.cfg 2 s.modState)

/-- The buttons' registers after a mask (R211). -/
def withButtons (mask : Word) (s : State) : State :=
  { s with
    btn0 := buttonAfter s.btn0 (maskBit mask 1) (buttonCode s.cfg 0 s.modState)
    btn1 := buttonAfter s.btn1 (maskBit mask 2) (buttonCode s.cfg 1 s.modState)
    btn2 := buttonAfter s.btn2 (maskBit mask 4) (buttonCode s.cfg 2 s.modState) }

/-- Whether a position is reported (42_mouse.md R213). -/
abbrev reported (x y : Word) (s : State) : Prop :=
  s.cfg.motionPolicy = .everyPoll ∨ s.mposValid = false ∨ x.toNat ≠ s.lastMx.toNat ∨ y.toNat ≠ s.lastMy.toNat

/-- The cursor moved (R213, 10_state.md R44). -/
def cursorAt (x y : Word) (s : State) : State :=
  { s with curNewX := BitVec.ofNat 16 x.toNat, curNewY := BitVec.ofNat 16 y.toNat }

/-- The registers after a reported position (R213). -/
def positionReported (x y : Word) (s : State) : State :=
  cursorAt x y { s with
    lastMx := BitVec.ofNat 16 x.toNat, lastMy := BitVec.ofNat 16 y.toNat, mposValid := true }

/-- A position's events (R213): where it is reported, two coordinate events, x then y. -/
def positionEvents (x y : Word) (s : State) : List Event :=
  if reported x y s then [⟨1, x.toNat⟩, ⟨1, y.toNat⟩] else []

/-- A letter: 'a' to 'z' or 'A' to 'Z' (41_keyboard.md R172). -/
abbrev letterCode (n : Nat) : Prop := (97 ≤ n ∧ n ≤ 122) ∨ (65 ≤ n ∧ n ≤ 90)

/-- BlitRect written as 45_blitter.md R274's loops, every skip a `continue`. -/
def blitLoop (s : State) (x y w h : Nat) : List Output :=
  let wpr := (s.display.w.toNat + 15) / 16
  if s.display.handle = 0 then []
  else
    (List.range' y h).flatMap fun row =>
      if s.display.h.toNat ≤ row then []
      else (List.range' (x / 16) ((x + w + 15) / 16 - x / 16)).flatMap fun wc =>
        if wpr ≤ wc then []
        else .fetch (row * wpr + wc) s.display.handle
          :: (List.range 16).reverse.flatMap fun p =>
            let col := 16 * wc + (15 - p)
            let X := col + s.offX.toNat
            let Y := row + s.offY.toNat
            if s.display.w.toNat ≤ col then []
            else if s.screen.w.toNat ≤ X ∨ s.screen.h.toNat ≤ Y then []
            else [.pixel X Y (if (s.display.words.read (row * wpr + wc)).getLsbD p then s.fgColor else s.bgColor)]

/-- Stamp written as R278's loops. -/
def stampLoop (s : State) (cx cy : Nat) : List Output :=
  (List.range 16).flatMap fun r =>
    (List.range 16).flatMap fun c =>
      if (s.cfg.cursorGlyph.read r).getLsbD (15 - c) = true ∧ cx + c < s.display.w.toNat ∧ cy + r < s.display.h.toNat
          ∧ cx + c + s.offX.toNat < s.screen.w.toNat ∧ cy + r + s.offY.toNat < s.screen.h.toNat then
        [.pixel (cx + c + s.offX.toNat) (cy + r + s.offY.toNat) s.cursorColor]
      else []

/-- What a cursor update appends (R277): the restored band, then the stamp. -/
def cursorLoop (s : State) : List Output :=
  blitLoop s s.curPrevX.toNat s.curPrevY.toNat 16 16 ++ stampLoop s s.curNewX.toNat s.curNewY.toNat

/-- One axis of the centering offsets (R272), on naturals. -/
def centred (screen bitmap : Nat) : Nat :=
  let o := (2 ^ 32 + screen - bitmap) % 2 ^ 32 / 2
  if bitmap / 2 < o then 0 else o

/-- OFF_X and OFF_Y after CALC_OFFSETS (R272). -/
def withOffsets (s : State) : State :=
  { s with
    offX := if s.display.handle = 0 then 0 else BitVec.ofNat 16 (centred s.screen.w.toNat s.display.w.toNat)
    offY := if s.display.handle = 0 then 0 else BitVec.ofNat 16 (centred s.screen.h.toNat s.display.h.toNat) }

/-- CHECK_WAKE's effect (46_sequencer.md R322). -/
def wakeChecked (s : State) : State :=
  if s.swPending = false then s
  else if s.swTick.toNat ≤ s.clock.sampleTick.1.toNat then
    { s with
      clock := s.clock.sampleTick.2, trace := s.trace ++ [.signal .timer s.swSignal]
      swPending := false, swSignal := 0, swTick := 0 }
  else { s with clock := s.clock.sampleTick.2 }

/-- RENDER's effect (45_blitter.md R280). -/
def rendered (s : State) : State :=
  if s.drW = 0 ∨ s.drH = 0 then s
  else if s.display.handle = 0 then { s with drX := 0, drY := 0, drW := 0, drH := 0 }
  else
    { s with
      drX := 0, drY := 0, drW := 0, drH := 0
      trace := s.trace ++ blitLoop s s.drX.toNat s.drY.toNat s.drW.toNat s.drH.toNat ++ cursorLoop s
      curPrevX := s.curNewX, curPrevY := s.curNewY }

/-- A word fed to the stream decoder through DEC_WORD. -/
def feedWord (w : Half) (s : State) : Answer := exec .decWord { s with host := { s.host with arg0 := w.setWidth 32 } }

/-- A KEY_RAW with the operands of keyboard report `k`, as the host port would issue it in IDLE. -/
def asCommand (k : KeyReport) (s : State) : State :=
  { s with seqPhase := .idle, host := { s.host with arg0 := k.a, arg1 := k.b } }

/-- The phase changes of the table of 46_sequencer.md R311, reset apart. -/
def phaseTable : List (Phase × Phase) :=
  [(.idle, .offsets), (.idle, .terminated), (.idle, .faulted), (.offsets, .poll), (.poll, .wake), (.poll, .faulted),
   (.wake, .run), (.run, .termchk), (.run, .faulted), (.termchk, .terminated), (.termchk, .render)]
  ++ [(.render, .delay), (.render, .idle), (.delay, .idle)]

/-- The configuration registers. -/
def configRegs (s : State) : Word × Word × Word × Word × Word × Word :=
  (s.ctrl, s.cyclesPerFrame, s.frameDelay, s.fgColor, s.bgColor, s.cursorColor)

/-- An output event that respects 20_memory.md R83, R85 and 60_exceptions.md R370: a pixel on the screen, a fetch
inside the bitmap with its handle, a signal with an id. -/
def OutputInRange (s : State) : Output → Prop
  | .pixel x y _ => x < s.screen.w.toNat ∧ y < s.screen.h.toNat
  | .fetch i h => h = s.display.handle ∧ h ≠ 0 ∧ i < (s.display.w.toNat + 15) / 16 * s.display.h.toNat
  | .signal _ id => id ≠ 0
  | .runRequest _ => True

end Sys2Proof.Claims

open Sys2Proof.Claims

/-! ## Encodings -/

/-- R110, R100, R107: decoding an encoded well-formed instruction gives it back. -/
def Obligations.DecodeInvertsEncode : Prop :=
  ∀ i : Instr, i.wellFormed = true → decode (encode i) = .ok i

/-- Every word that decodes is the one encoding of a well-formed instruction. -/
def Obligations.EncodeInvertsDecode : Prop :=
  ∀ (e : Encoded) (i : Instr), decode e = .ok i → i.wellFormed = true ∧ encode i = e

/-- R108, R110, R112: a CMD word is the row of its opcode, provided its bits 31:8 are 0; every other is illegal. -/
def Obligations.CommandIsTheRowOfItsOpcode : Prop :=
  ∀ cmd : Word,
    decodeCommand cmd =
      if 256 ≤ cmd.toNat then .error (.reservedBits cmd)
      else match opcodeMap.lookup cmd.toNat with
        | some i => .ok i
        | none => .error (.reservedOpcode (BitVec.ofNat 8 cmd.toNat))

/-- R131, R132: packing is shift and or, and Unpack inverts Pack both ways. -/
def Obligations.PackAndUnpackAreInverse : Prop :=
  (∀ t p : Nat, t ≤ 15 → p ≤ 4095 →
    (pack t p).toNat = t <<< 12 ||| p ∧ (eventType (pack t p)).toNat = t ∧ (eventParam (pack t p)).toNat = p)
  ∧ ∀ w : Half, pack (eventType w).toNat (eventParam w).toNat = w

/-- Words written out from the encodings of R110 and R101 decode to the instructions they stand for. -/
def Obligations.WrittenOutWordsDecode : Prop :=
  decodeTableWord 32 0x00000010 = some .emit ∧ decodeTableWord 32 0x00000021 = some .qPop
  ∧ decodeTableWord 32 0x00000033 = some .render ∧ decodeTableWord 32 0x00000110 = none
  ∧ decodeTableWord 32 0x00000004 = none
  ∧ decodeTableWord 16 0x3061 = some (.down 97) ∧ decodeTableWord 16 0x0FFF = some (.tsDelta 4095)
  ∧ decodeTableWord 16 0x2ABC = some (.reservedType2 0xABC) ∧ decodeTableWord 16 0xF001 = some (.reservedType815 15 1)

/-! ## The step -/

/-- R312: when no move of the outside world comes first, the step runs the command that waits at the live port (the
peer port in RUN, the host port in IDLE and while halted): the port's registers are held and it waits no longer. With
no command waiting there the block waits, whatever waits at the other port. -/
def Obligations.StepRunsTheCommandAtTheLivePort : Prop :=
  ∀ (s : State) (n : PortName) (i : Instr) (rest : List Move),
    (n = .peer ∧ s.seqPhase = .run)
      ∨ (n = .host ∧ (s.seqPhase = .idle ∨ s.seqPhase = .terminated ∨ s.seqPhase = .faulted)) →
    ((s.port n).waiting = true → decodeCommand (s.port n).cmd = .ok i →
      (s.schedule = [] → step s = exec i (s.accept n))
      ∧ (s.schedule = .block :: rest → step s = exec i ({ s with schedule := rest }.accept n)))
    ∧ ((s.port n).waiting = false → s.schedule = [] → step s = .next s)

/-- An instruction word placed with `withFetchWord` is what the very next step runs. -/
def Obligations.PlacedWordRunsNext : Prop :=
  ∀ (s : State) (nbits w : Nat) (i : Instr), decodeTableWord nbits w = some i →
    step (s.withFetchWord nbits w) = exec i ({ s.withFetchWord nbits w with schedule := s.schedule }.accept .host)

/-- R312: in the phases with internal steps no command is executed, and the step takes the internal step whatever
waits at the ports. That `exec` of an instruction, which the step asks for in none of these phases, leaves the state as
it is is the model's reading (log 10). -/
def Obligations.CommandsWaitDuringInternalPhases : Prop :=
  ∀ (s : State) (i : Instr) (h p : Bool), s.schedule = [] →
    s.seqPhase ∈ [Phase.offsets, .poll, .wake, .termchk, .render, .delay] →
    exec i s = .next s
    ∧ ∀ t, step s = .next t →
        step { s with host := { s.host with waiting := h }, peer := { s.peer with waiting := p } }
          = .next { t with host := { t.host with waiting := h }, peer := { t.peer with waiting := p } }

/-! ## Faults, halting, port legality -/

/-- R312, R361: a class H command on the peer port, in RUN, faults ILLEGAL_CMD (code 5). -/
def Obligations.ClassHFaultsInRun : Prop :=
  ∀ (i : Instr) (s : State), i.cls = .H → s.seqPhase = .run → exec i s = .next (faultedWith s 5)

/-- R112, R361, R368: an illegal CMD word faults ILLEGAL_CMD where commands are accepted, and is ignored while
halted. -/
def Obligations.IllegalCommandWordFaults : Prop :=
  ∀ (s : State) (n : PortName) (e : DecodeError),
    s.schedule = [] → (s.port n).waiting = true → decodeCommand (s.port n).cmd = .error e →
    ((n = .host ∧ s.seqPhase = .idle) ∨ (n = .peer ∧ s.seqPhase = .run) →
      step s = .next (faultedWith (s.accept n) 5))
    ∧ (n = .host → s.seqPhase = .terminated ∨ s.seqPhase = .faulted → step s = .next (s.accept .host))

/-- R368: while halted every command but those of class A is ignored, without effect and without a fault. That the
event words, run as DEC_WORD, are of class H is the model's choice (log 8). -/
def Obligations.HaltedIgnoresAllButClassA : Prop :=
  ∀ (i : Instr) (s : State), s.seqPhase = .terminated ∨ s.seqPhase = .faulted → i.cls ≠ .A → exec i s = .next s

/-- R362, R366: a command that ends in FAULTED leaves the state before it, except FAULT_CODE, which keeps the first
fault's code, and SEQ_PHASE; the code is one of 1 to 6. -/
def Obligations.FaultsArePrecise : Prop :=
  ∀ (i : Instr) (s t : State), exec i s = .next t → s.seqPhase ≠ .faulted → t.seqPhase = .faulted →
    ∃ code : Byte, 1 ≤ code.toNat ∧ code.toNat ≤ 6 ∧ t = faultedWith s code

/-- R112, R170: the keyboard command of the absent mode faults ILLEGAL_CMD. -/
def Obligations.AbsentKeyboardModeFaults : Prop :=
  ∀ s : State, s.seqPhase = .idle →
    (s.cfg.kbdMode = .cooked → exec .keyRaw s = .next (faultedWith s 5))
    ∧ (s.cfg.kbdMode = .raw → exec .keyCooked s = .next (faultedWith s 5))

/-- R400, R367, R325: nothing but reset leaves TERMINATED or FAULTED, and while halted the fault code and the
output trace do not change. -/
def Obligations.OnlyResetLeavesHalted : Prop :=
  ∀ s t : State, s.seqPhase = .terminated ∨ s.seqPhase = .faulted → s.schedule.head? ≠ some .reset →
    step s = .next t → t.seqPhase = s.seqPhase ∧ t.faultCode = s.faultCode ∧ t.trace = s.trace

/-! ## Reset -/

/-- R400, R401: reset is accepted in every phase and writes every register to its reset value; waiting commands are
discarded. The parameters are not affected, and the queue storage is any (R45 leaves it unspecified). That reset keeps
the input ports and the rest of the schedule is the model's reading (log 16). -/
def Obligations.ResetWritesEveryRegister : Prop :=
  ∀ (s : State) (rest : List Move), s.schedule = .reset :: rest →
    ∃ q : Cells 16, step s = .next
      { cfg := s.cfg, host := ⟨0, 0, 0, 0, 0, 0, 0, 0, 0, false⟩, peer := ⟨0, 0, 0, 0, 0, 0, 0, 0, 0, false⟩
        lastTick := 0, tsValid := false, evtCount := 0
        decPhase := .tag, decHi := 0, decXy := false, decErr := false
        modState := 0, caps := false
        btn0 := ⟨false, 0⟩, btn1 := ⟨false, 0⟩, btn2 := ⟨false, 0⟩
        mposValid := false, lastMx := 0, lastMy := 0, curNewX := 0, curNewY := 0
        q := q, qHead := 0, qCount := 0, qOvf := false, inSig := 0
        drX := 0, drY := 0, drW := 0, drH := 0, curPrevX := 0, curPrevY := 0, offX := 0, offY := 0
        swPending := false, swSignal := 0, swTick := 0
        seqPhase := .idle, termFlag := false, faultCode := 0, delayStart := 0
        ctrl := 0, cyclesPerFrame := s.cfg.cpfReset, frameDelay := s.cfg.delayReset
        fgColor := s.cfg.fgReset, bgColor := s.cfg.bgReset, cursorColor := s.cfg.curReset
        trace := [], clock := s.clock, kbd := s.kbd, mouse := s.mouse, screen := s.screen
        display := s.display, schedule := rest }

/-- The invariant of R70 holds right after reset, for every legal parameter set. -/
def Obligations.ResetMeetsTheInvariant : Prop :=
  ∀ cfg : Config, cfg.Legal → (State.resetOf cfg).Inv

/-! ## Invariants and whole-machine rules -/

/-- R70: every step keeps the invariant. -/
def Obligations.StepKeepsTheInvariant : Prop :=
  ∀ s t : State, s.Inv → step s = .next t → t.Inv

/-- R67, R83, R85, R370: a step other than reset only appends to the output trace, and what it appends is in range. -/
def Obligations.StepAppendsOutputsInRange : Prop :=
  ∀ s t : State, s.Inv → s.schedule.head? ≠ some .reset → step s = .next t →
    ∃ es, t.trace = s.trace ++ es ∧ ∀ e ∈ es, OutputInRange s e

/-- R311: every step but reset keeps SEQ_PHASE or changes it as the table of transitions says. -/
def Obligations.PhasesFollowTheTable : Prop :=
  ∀ s t : State, s.schedule.head? ≠ some .reset → step s = .next t →
    t.seqPhase = s.seqPhase ∨ (s.seqPhase, t.seqPhase) ∈ phaseTable

/-- R324, R325: an iteration starts only by FRAME from IDLE, and TERMINATED is entered only in IDLE by TERMINATE or
from TERMCHK with TERM_FLAG set. -/
def Obligations.IterationStartsByFrameEndsByTerminate : Prop :=
  ∀ s t : State, s.schedule.head? ≠ some .reset → step s = .next t → t.seqPhase ≠ s.seqPhase →
    (t.seqPhase = .offsets → s.seqPhase = .idle ∧ s.host.waiting = true ∧ decodeCommand s.host.cmd = .ok .frame)
    ∧ (t.seqPhase = .terminated →
        (s.seqPhase = .idle ∧ s.host.waiting = true ∧ decodeCommand s.host.cmd = .ok .terminate)
        ∨ (s.seqPhase = .termchk ∧ s.termFlag = true))

/-- R414: outside IDLE nothing but reset changes the configuration registers; and a change redraws nothing. -/
def Obligations.ConfigurationIsConstantOutsideIdle : Prop :=
  ∀ s t : State,
    (s.schedule.head? ≠ some .reset → s.seqPhase ≠ .idle → step s = .next t → configRegs t = configRegs s)
    ∧ (exec .csrWrite s = .next t → t.trace = s.trace)

/-- R40, R41, R36, R53: no command but KEY_RAW writes MOD_STATE or CAPS; no command but TERMINATE changes TERM_FLAG;
no command clears TS_VALID. -/
def Obligations.StickyStateHasOneWriter : Prop :=
  ∀ (i : Instr) (s t : State), exec i s = .next t →
    (i ≠ .keyRaw → t.modState = s.modState ∧ t.caps = s.caps)
    ∧ (i ≠ .terminate → t.termFlag = s.termFlag)
    ∧ (s.tsValid = true → t.tsValid = true)

/-- R415, R33: a command never changes the other port's registers, nor CMD and ARG of its own; and the sequencer's
internal steps write no port register. -/
def Obligations.PortsDoNotInterfere : Prop :=
  ∀ (i : Instr) (s t : State),
    (exec i s = .next t →
      (s.seqPhase = .run → t.host = s.host) ∧ (s.seqPhase ≠ .run → t.peer = s.peer)
      ∧ t.host = { s.host with res0 := t.host.res0, res1 := t.host.res1, res2 := t.host.res2, res3 := t.host.res3 }
      ∧ t.peer = { s.peer with res0 := t.peer.res0, res1 := t.peer.res1, res2 := t.peer.res2, res3 := t.peer.res3 })
    ∧ (s.schedule = [] → s.seqPhase ∈ [Phase.offsets, .poll, .wake, .termchk, .render, .delay] →
        step s = .next t → t.host = s.host ∧ t.peer = s.peer)

/-! ## Event Codec -/

/-- R143, R133 to R136: EMIT, in every case. The words are written out: type in bits 15:12, and one frame, a zero
delta first of all, a short delta up to 4095, else the marker and the two halves of the absolute time. -/
def Obligations.EmitFramesOneEvent : Prop :=
  ∀ s : State, s.seqPhase = .idle →
    let now := s.clock.sampleTick.1
    let drawn := s.clock.sampleTick.2
    let d := (2 ^ 32 + now.toNat - s.lastTick.toNat) % 2 ^ 32
    let a := (drawn.sampleWall.1.toNat + 2177452800) % 2 ^ 32
    let w : Half := BitVec.ofNat 16 (2 ^ 12 * s.arg0.toNat + s.arg1.toNat)
    let words : List Half :=
      if s.tsValid = false then [0, w]
      else if d ≤ 4095 then [BitVec.ofNat 16 d, w]
      else [0x5000, BitVec.ofNat 16 (a / 2 ^ 16), BitVec.ofNat 16 (a % 2 ^ 16), w]
    let left := if s.tsValid = false ∨ d ≤ 4095 then drawn else drawn.sampleWall.2
    exec .emit s = .next (
      if s.inSig = 0 then faultedWith s 1
      else if ¬ (s.arg0 = 1 ∨ s.arg0 = 3 ∨ s.arg0 = 4) ∨ 4095 < s.arg1.toNat then faultedWith s 3
      else if s.cfg.qdepth < s.qCount + words.length then { s with qOvf := true, clock := left }
      else { s.enqueueAll words with lastTick := now, tsValid := true, evtCount := s.evtCount + 1, clock := left })

/-- R140, R137: each event of a group gets its own tick draw and its own frame, taken against the tick of the event
before it, and then its word. -/
def Obligations.GroupFramesEachEvent : Prop :=
  ∀ (s : State) (events : List Event) (e : Event), e.type ≤ 15 → e.param ≤ 4095 →
    let f := s.frameEvents events
    let now := f.clock.sampleTick.1
    let drawn := f.clock.sampleTick.2
    let d := (2 ^ 32 + now.toNat - f.lastTick.toNat) % 2 ^ 32
    let a := (drawn.sampleWall.1.toNat + 2177452800) % 2 ^ 32
    let frame : List Half :=
      if f.tsValid = false then [0]
      else if d ≤ 4095 then [BitVec.ofNat 16 d]
      else [0x5000, BitVec.ofNat 16 (a / 2 ^ 16), BitVec.ofNat 16 (a % 2 ^ 16)]
    s.frameEvents [] = ⟨[], s.lastTick, s.tsValid, s.evtCount, s.clock⟩
    ∧ s.frameEvents (events ++ [e]) =
        { words := f.words ++ frame ++ [BitVec.ofNat 16 (2 ^ 12 * e.type + e.param)]
          lastTick := now, tsValid := true, evtCount := f.evtCount + 1
          clock := if f.tsValid = false ∨ d ≤ 4095 then drawn else drawn.sampleWall.2 }

/-- R140, R141: EmitGroup's checks in order, the drop of a whole group that does not fit, and the commit. -/
def Obligations.EmitGroupChecksThenQueuesOrDropsWhole : Prop :=
  ∀ (s : State) (events : List Event),
    emitGroup events s =
      if events = [] then .ok s
      else if s.inSig = 0 then .error .noInputSignal
      else if ∃ e ∈ events, 15 < e.type ∨ 4095 < e.param then .error .paramRange
      else .ok (queued events s)

/-- R153 law 3, R142: the words of a group of legal events parse back to exactly those events, each with one frame. -/
def Obligations.GroupWordsParseBack : Prop :=
  ∀ (s : State) (events : List Event),
    (∀ e ∈ events, (e.type = 1 ∨ e.type = 3 ∨ e.type = 4) ∧ e.param ≤ 4095) →
    ∃ ps, decodeEvents (s.frameEvents events).words = .ok ps
      ∧ ps.map (fun p => (p.type.toNat, p.param.toNat)) = events.map (fun e => (e.type, e.param))

/-- R153 laws 1 and 2: a short frame decodes to DELTA d; an absolute frame is exactly three words that decode to
NONE, NONE, ABS A. -/
def Obligations.FramesRoundTripThroughTheDecoder : Prop :=
  ∀ (s : State) (now lt : Word) (c : Clock), s.seqPhase = .idle → s.decPhase = .tag →
    let d := (2 ^ 32 + now.toNat - lt.toNat) % 2 ^ 32
    let a : Word := BitVec.ofNat 32 (c.sampleWall.1.toNat + 2177452800)
    (d ≤ 4095 → ∃ w t, tsFrame now lt true c = ([w], c) ∧ feedWord w s = .next t
      ∧ t.host.res0 = 1 ∧ t.host.res1.toNat = d ∧ t.decPhase = .tag)
    ∧ (4095 < d → ∃ w0 w1 w2 t0 t1 t2, tsFrame now lt true c = ([w0, w1, w2], c.sampleWall.2)
      ∧ w0 = 0x5000 ∧ (w1.toNat * 2 ^ 16 + w2.toNat) = a.toNat
      ∧ feedWord w0 s = .next t0 ∧ feedWord w1 t0 = .next t1 ∧ feedWord w2 t1 = .next t2
      ∧ t0.host.res0 = 0 ∧ t1.host.res0 = 0 ∧ t2.host.res0 = 6 ∧ t2.host.res1 = a ∧ t2.decPhase = .tag)

/-! ## Stream decoder -/

/-- R150, R106, R107: DEC_WORD in every phase and for every type; nothing else changes. -/
def Obligations.DecWordFollowsThePhase : Prop :=
  ∀ s : State, s.seqPhase = .idle →
    let w := s.arg0.toNat % 2 ^ 16
    let t := w / 2 ^ 12
    let p : Word := BitVec.ofNat 32 (w % 2 ^ 12)
    exec .decWord s = .next (
      match s.decPhase with
      | .hi => { s with decHi := BitVec.ofNat 16 w, decPhase := .lo, host := { s.host with res0 := 0, res1 := 0 } }
      | .lo => { s with
          decPhase := .tag
          host := { s.host with res0 := 6, res1 := BitVec.ofNat 32 (2 ^ 16 * s.decHi.toNat + w) } }
      | .tag =>
        if t = 0 then { s with host := { s.host with res0 := 1, res1 := p } }
        else if t = 1 then
          { s with decXy := !s.decXy, host := { s.host with res0 := if s.decXy then 3 else 2, res1 := p } }
        else if t = 3 then { s with host := { s.host with res0 := 4, res1 := p } }
        else if t = 4 then { s with host := { s.host with res0 := 5, res1 := p } }
        else if t = 5 then { s with decPhase := .hi, host := { s.host with res0 := 0, res1 := 0 } }
        else { s with decErr := true, host := { s.host with res0 := 7, res1 := BitVec.ofNat 32 w } })

/-- What each event word does in phase TAG, constructor by constructor, as R101, R117 and R150 give DEC_WORD's tokens;
and executing the instruction a word decodes to is executing DEC_WORD with that word in ARG0[15:0], in every phase.
The reading of an event word as an instruction is the model's (log 8). -/
def Obligations.EventWordsRunAsDecWordTokens : Prop :=
  (∀ s : State, exec (decodeEventWord (s.arg0.setWidth 16)) s = exec .decWord s)
  ∧ ∀ (s : State) (p : BitVec 12) (t : BitVec 4), s.seqPhase = .idle → s.decPhase = .tag →
    let v : Word := BitVec.ofNat 32 p.toNat
    let res := fun k x : Word => { s.host with res0 := k, res1 := x }
    exec (.tsDelta p) s = .next { s with host := res 1 v }
    ∧ exec (.coord p) s = .next { s with host := res (if s.decXy then 3 else 2) v, decXy := !s.decXy }
    ∧ exec (.down p) s = .next { s with host := res 4 v }
    ∧ exec (.up p) s = .next { s with host := res 5 v }
    ∧ exec (.tsAbs p) s = .next { s with host := res 0 0, decPhase := .hi }
    ∧ exec (.reservedType2 p) s = .next { s with host := res 7 (BitVec.ofNat 32 (0x2000 + p.toNat)), decErr := true }
    ∧ exec (.reservedType67 t p) s
        = .next { s with host := res 7 (BitVec.ofNat 32 (2 ^ 12 * t.toNat + p.toNat)), decErr := true }
    ∧ exec (.reservedType815 t p) s
        = .next { s with host := res 7 (BitVec.ofNat 32 (2 ^ 12 * t.toNat + p.toNat)), decErr := true }

/-- R151: DEC_RESET writes the three decoder registers and nothing else; DEC_ERR stays. -/
def Obligations.DecResetRestartsTheDecoder : Prop :=
  ∀ s : State, s.seqPhase = .idle →
    exec .decReset s = .next { s with decPhase := .tag, decHi := 0, decXy := false }

/-! ## Keyboard Decoder -/

/-- R172 to R177, R179, R184, R363: the raw keys that emit nothing change MOD_STATE alone and need no input signal. -/
def Obligations.IgnoredRawKeysWriteOnlyModState : Prop :=
  ∀ s : State, s.seqPhase = .idle → s.cfg.kbdMode = .raw →
    let scan := s.arg0.toNat
    let mods : Byte := s.arg1.setWidth 8
    let b := s.cfg.baseTable.read scan
    (255 < scan
      ∨ (scan ≠ s.cfg.capslockScan.toNat ∧ 127 < scan ∧ s.undecoded = false)
      ∨ (scan ≠ s.cfg.capslockScan.toNat ∧ scan ≤ 127 ∧ mods &&& s.cfg.metaMask ≠ 0)
      ∨ (scan ≠ s.cfg.capslockScan.toNat ∧ scan ≤ 127 ∧ mods &&& s.cfg.metaMask = 0 ∧ mods &&& s.cfg.altMask ≠ 0
          ∧ (b = 0 ∨ 127 < b.toNat ∨ s.cfg.altTable.read b.toNat = 0))
      ∨ (scan ≠ s.cfg.capslockScan.toNat ∧ scan ≤ 127 ∧ mods &&& s.cfg.metaMask = 0 ∧ mods &&& s.cfg.altMask = 0
          ∧ mods &&& s.cfg.ctrlMask ≠ 0 ∧ ¬ letterCode b.toNat ∧ s.cfg.ctrlNonletter = .ignore)
      ∨ (scan ≠ s.cfg.capslockScan.toNat ∧ scan ≤ 127 ∧ mods &&& s.cfg.metaMask = 0 ∧ mods &&& s.cfg.altMask = 0
          ∧ (mods &&& s.cfg.ctrlMask = 0 ∨ ¬ letterCode b.toNat)
          ∧ ((mods &&& s.cfg.shiftMask ≠ 0 ∧ s.cfg.shiftTable.read scan = 0)
              ∨ (mods &&& s.cfg.shiftMask = 0 ∧ b = 0)))) →
    exec .keyRaw s = .next { s with modState := mods }

/-- R173: caps lock inverts CAPS and emits one word with parameter 139, DOWN when it engages, UP when it disengages,
whatever the modifiers. R175: in undecoded mode a code 128–255 is one word carrying the raw code, its type driven by
CAPS; with UNDECODED = 0 it is ignored. -/
def Obligations.CapsDrivesCapsLockAndUndecodedWords : Prop :=
  ∀ s : State, s.seqPhase = .idle → s.cfg.kbdMode = .raw →
    (s.arg0.toNat = s.cfg.capslockScan.toNat →
      exec .keyRaw s = .next (groupAfter s { s with modState := s.arg1.setWidth 8, caps := !s.caps }
        [⟨if s.caps then 4 else 3, 139⟩]))
    ∧ (127 < s.arg0.toNat → s.arg0.toNat ≤ 255 → s.arg0.toNat ≠ s.cfg.capslockScan.toNat →
        exec .keyRaw s = .next (groupAfter s { s with modState := s.arg1.setWidth 8 }
          (if s.undecoded then [⟨if s.caps then 3 else 4, s.arg0.toNat⟩] else [])))

/-- R178: control on a letter emits exactly the four-event bracket, shift or not. -/
def Obligations.ControlLetterEmitsTheBracket : Prop :=
  ∀ s : State, s.seqPhase = .idle → s.cfg.kbdMode = .raw →
    s.arg0.toNat ≤ 127 → s.arg0.toNat ≠ s.cfg.capslockScan.toNat →
    let mods : Byte := s.arg1.setWidth 8
    let b := (s.cfg.baseTable.read s.arg0.toNat).toNat
    mods &&& s.cfg.metaMask = 0 → mods &&& s.cfg.altMask = 0 → mods &&& s.cfg.ctrlMask ≠ 0 →
    letterCode b →
    exec .keyRaw s = .next (groupAfter s { s with modState := mods } [⟨3, 138⟩, ⟨3, b⟩, ⟨4, b⟩, ⟨4, 138⟩])

/-- R177, R179 to R182: the alt, shift and plain paths emit a down and an up of their table's character; control on a
non-letter falls through to shift or plain. -/
def Obligations.TableKeysEmitDownUpPairs : Prop :=
  ∀ s : State, s.seqPhase = .idle → s.cfg.kbdMode = .raw →
    s.arg0.toNat ≤ 127 → s.arg0.toNat ≠ s.cfg.capslockScan.toNat →
    let mods : Byte := s.arg1.setWidth 8
    let b := s.cfg.baseTable.read s.arg0.toNat
    let sh := s.cfg.shiftTable.read s.arg0.toNat
    let t := { s with modState := mods }
    let pair := fun c : Byte => [(⟨3, c.toNat⟩ : Event), ⟨4, c.toNat⟩]
    mods &&& s.cfg.metaMask = 0 →
    (mods &&& s.cfg.altMask ≠ 0 → 1 ≤ b.toNat → b.toNat ≤ 127 → s.cfg.altTable.read b.toNat ≠ 0 →
      exec .keyRaw s = .next (groupAfter s t (pair (s.cfg.altTable.read b.toNat))))
    ∧ (mods &&& s.cfg.altMask = 0 →
        mods &&& s.cfg.ctrlMask = 0 ∨ (¬ letterCode b.toNat ∧ s.cfg.ctrlNonletter = .fallthrough) →
        (mods &&& s.cfg.shiftMask ≠ 0 → sh ≠ 0 → exec .keyRaw s = .next (groupAfter s t (pair sh)))
        ∧ (mods &&& s.cfg.shiftMask = 0 → b ≠ 0 → exec .keyRaw s = .next (groupAfter s t (pair b))))

/-- R185: a cooked key's events nest control, meta, payload; malformed input is ignored; MOD_STATE and CAPS are not
touched. -/
def Obligations.CookedKeysNestTheirBrackets : Prop :=
  ∀ s : State, s.seqPhase = .idle → s.cfg.kbdMode = .cooked →
    let b := s.arg0.toNat
    let payload : List Event := [⟨3, b⟩, ⟨4, b⟩]
    let withMeta : List Event := [⟨3, 136⟩] ++ payload ++ [⟨4, 136⟩]
    exec .keyCooked s = .next (groupAfter s s (
      if b = 0 ∨ 255 < b ∨ 3 < s.arg1.toNat then []
      else if s.arg1 = 0 then payload
      else if s.arg1 = 1 then [⟨3, 138⟩] ++ payload ++ [⟨4, 138⟩]
      else if s.arg1 = 2 then withMeta
      else [⟨3, 138⟩] ++ withMeta ++ [⟨4, 138⟩]))

/-! ## Mouse Translator -/

/-- R211, R212, R215: MOUSE_BUTTONS, button by button in the order mask 1, 2, 4; a release replays the latched code;
other bits are ignored. R210, R9: the default codes are 130, 128, 129, whatever the modifier byte. -/
def Obligations.ButtonsLatchAtPressReplayAtRelease : Prop :=
  ∀ s : State, s.seqPhase = .idle →
    exec .mouseButtons s = .next (groupAfter s (withButtons s.arg0 s) (maskEvents s.arg0 s))
    ∧ (s.cfg.buttonCodes = [] → ∀ mods : Byte,
        buttonCode s.cfg 0 mods = 130 ∧ buttonCode s.cfg 1 mods = 128 ∧ buttonCode s.cfg 2 mods = 129)

/-- R213: MOUSE_MOTION in every case: the unchanged position, no signal, a coordinate out of range, the report. -/
def Obligations.MotionReportsXThenY : Prop :=
  ∀ s : State, s.seqPhase = .idle →
    (¬ reported s.arg0 s.arg1 s → exec .mouseMotion s = .next (cursorAt s.arg0 s.arg1 s))
    ∧ (reported s.arg0 s.arg1 s → s.inSig = 0 → exec .mouseMotion s = .next (faultedWith s 1))
    ∧ (reported s.arg0 s.arg1 s → s.inSig ≠ 0 → 4095 < s.arg0.toNat ∨ 4095 < s.arg1.toNat →
        exec .mouseMotion s = .next (faultedWith s 3))
    ∧ (reported s.arg0 s.arg1 s → s.inSig ≠ 0 → s.arg0.toNat ≤ 4095 → s.arg1.toNat ≤ 4095 →
        exec .mouseMotion s = .next (queued (positionEvents s.arg0 s.arg1 s) (positionReported s.arg0 s.arg1 s)))

/-- R214, R237, R364: MOUSE_POLL is the motion, then the buttons, as one command: its words are queued or dropped as
one, and a fault in either cancels every write. Where the queue has room for all the words, it is MOUSE_MOTION and then
MOUSE_BUTTONS, two EmitGroup calls in that order. That the room is checked for the command's words together, where R140
checks it in each call, is the model's reading (log 25). -/
def Obligations.PollIsMotionThenButtons : Prop :=
  ∀ s : State, s.seqPhase = .idle →
    (¬ reported s.arg0 s.arg1 s →
      exec .mousePoll s = .next (groupAfter s (withButtons s.arg2 (cursorAt s.arg0 s.arg1 s)) (maskEvents s.arg2 s)))
    ∧ (reported s.arg0 s.arg1 s → s.inSig = 0 → exec .mousePoll s = .next (faultedWith s 1))
    ∧ (reported s.arg0 s.arg1 s → s.inSig ≠ 0 → 4095 < s.arg0.toNat ∨ 4095 < s.arg1.toNat →
        exec .mousePoll s = .next (faultedWith s 3))
    ∧ (reported s.arg0 s.arg1 s → s.inSig ≠ 0 → s.arg0.toNat ≤ 4095 → s.arg1.toNat ≤ 4095 →
        exec .mousePoll s = .next (queued (positionEvents s.arg0 s.arg1 s ++ maskEvents s.arg2 s)
          (withButtons s.arg2 (positionReported s.arg0 s.arg1 s))))
    ∧ ∀ t u, exec .mouseMotion s = .next t →
        exec .mouseButtons { t with host := { t.host with arg0 := s.host.arg2 } } = .next u → u.seqPhase = .idle →
        s.qCount + (s.frameEvents (positionEvents s.arg0 s.arg1 s ++ maskEvents s.arg2 s)).words.length ≤ s.cfg.qdepth →
        exec .mousePoll s = .next { u with host := s.host }

/-! ## Input Queue -/

/-- R231, R45, R94: enqueuing writes the storage, Q_COUNT and the output trace and nothing else; enqueued words join the
held words at the end, in order; every slot of storage outside the newly filled ones reads as before. -/
def Obligations.EnqueuedWordsJoinTheHeldWords : Prop :=
  ∀ (s : State) (ws : List Half),
    s.enqueueAll ws = { s with
      q := (s.enqueueAll ws).q, qCount := s.qCount + ws.length, trace := (s.enqueueAll ws).trace }
    ∧ (s.QueueInv → s.qCount + ws.length ≤ s.cfg.qdepth →
      (s.enqueueAll ws).heldWords = s.heldWords ++ ws ∧ (s.enqueueAll ws).QueueInv
      ∧ ∀ a, (∀ k, k < ws.length → a ≠ (s.qHead + s.qCount + k) % s.cfg.qdepth) →
          (s.enqueueAll ws).q.read a = s.q.read a)

/-- R232: with ON_TRANSITION one INPUT_READY signal, with id IN_SIG, when the queue goes from empty to non-empty;
with EVERY_WORD one for every word. -/
def Obligations.InputReadySignalsOnTransition : Prop :=
  ∀ (s : State) (ws : List Half),
    (s.enqueueAll ws).trace = s.trace ++
      match s.cfg.wakePolicy with
      | .onTransition => if s.qCount = 0 ∧ ws ≠ [] then [.signal .inputReady s.inSig] else []
      | .everyWord => List.replicate ws.length (.signal .inputReady s.inSig)

/-- R234, R235, R236: Q_POP returns the oldest held word and leaves the rest in order, from the peer port in RUN and
from the host port in IDLE, and nothing else changes. A pop of an empty queue returns RES1 = 0 and changes nothing else.
That the vacated slot of storage keeps its word is the model's choice (log 4). -/
def Obligations.PopReturnsTheOldestWord : Prop :=
  (∀ s : State, s.qCount = 0 →
    (s.seqPhase = .idle → exec .qPop s = .next { s with host := { s.host with res0 := 0, res1 := 0 } })
    ∧ (s.seqPhase = .run → exec .qPop s = .next { s with peer := { s.peer with res0 := 0, res1 := 0 } }))
  ∧ ∀ (s : State) (w : Half) (rest : List Half), s.QueueInv → s.heldWords = w :: rest →
    let popped := { s with qHead := (s.qHead + 1) % s.cfg.qdepth, qCount := s.qCount - 1 }
    popped.heldWords = rest ∧ popped.QueueInv
    ∧ (s.seqPhase = .idle →
        exec .qPop s = .next { popped with host := { s.host with res0 := BitVec.ofNat 32 w.toNat, res1 := 1 } })
    ∧ (s.seqPhase = .run →
        exec .qPop s = .next { popped with peer := { s.peer with res0 := BitVec.ofNat 32 w.toNat, res1 := 1 } })

/-- R233: SET_INPUT_SIGNAL writes IN_SIG with ARG0 and nothing else. -/
def Obligations.SetInputSignalWritesInSig : Prop :=
  ∀ s : State,
    (s.seqPhase = .idle → exec .setInputSignal s = .next { s with inSig := s.host.arg0 })
    ∧ (s.seqPhase = .run → exec .setInputSignal s = .next { s with inSig := s.peer.arg0 })

/-! ## Dirty-Region Tracker -/

/-- R252, R253, R251, R255: REPORT_DAMAGE in every case, with the sums on naturals. -/
def Obligations.DamageIsCheckedThenUnited : Prop :=
  ∀ s : State, s.DirtyInv → s.seqPhase = .idle ∨ s.seqPhase = .run →
    let x := s.arg0.toNat
    let y := s.arg1.toNat
    let w := s.arg2.toNat
    let h := s.arg3.toNat
    let x' := min s.drX.toNat x
    let y' := min s.drY.toNat y
    ∃ t, exec .reportDamage s = .next t
    ∧ (s.display.handle = 0 → t = faultedWith s 4)
    ∧ (s.display.handle ≠ 0 → s.display.w.toNat < x + w ∨ s.display.h.toNat < y + h → t = faultedWith s 2)
    ∧ (s.display.handle ≠ 0 → x + w ≤ s.display.w.toNat → y + h ≤ s.display.h.toNat →
        t = { s with drX := t.drX, drY := t.drY, drW := t.drW, drH := t.drH }
        ∧ (t.drX.toNat, t.drY.toNat, t.drW.toNat, t.drH.toNat) =
            if s.drW = 0 ∨ s.drH = 0 then (x, y, w, h)
            else (x', y', max (s.drX.toNat + s.drW.toNat) (x + w) - x', max (s.drY.toNat + s.drH.toNat) (y + h) - y'))

/-- R254: DR_TAKE returns the tracked rectangle in RES0 to RES3 and clears it. -/
def Obligations.TakeReturnsAndClearsTheRect : Prop :=
  ∀ s : State, s.seqPhase = .idle →
    exec .drTake s = .next
      { s with
        drX := 0, drY := 0, drW := 0, drH := 0
        host := { s.host with
          res0 := BitVec.ofNat 32 s.drX.toNat, res1 := BitVec.ofNat 32 s.drY.toNat
          res2 := BitVec.ofNat 32 s.drW.toNat, res3 := BitVec.ofNat 32 s.drH.toNat } }

/-! ## Display Blitter -/

/-- R272: CALC_OFFSETS writes the offsets and nothing else. -/
def Obligations.OffsetsCentreOrClampToZero : Prop :=
  ∀ s : State, s.seqPhase = .idle → exec .calcOffsets s = .next (withOffsets s)

/-- R273 to R276: BLIT_RECT appends exactly what the loops of R274 append, each skip made one by one, and changes
nothing else. -/
def Obligations.BlitIsTheLiteralLoop : Prop :=
  ∀ s : State, s.seqPhase = .idle →
    exec .blitRect s = .next
      { s with trace := s.trace ++ blitLoop s s.arg0.toNat s.arg1.toNat s.arg2.toNat s.arg3.toNat }

/-- R277, R278: CURSOR_UPDATE restores the band at the previous position, then stamps at the new one, and makes it
the previous one; with no bitmap it does nothing. -/
def Obligations.CursorUpdateRestoresThenStamps : Prop :=
  ∀ s : State, s.seqPhase = .idle →
    exec .cursorUpdate s = .next (
      if s.display.handle = 0 then s
      else { s with trace := s.trace ++ cursorLoop s, curPrevX := s.curNewX, curPrevY := s.curNewY })

/-- R280, R279: RENDER does nothing without damage; else it takes the rectangle, copies it, restores and stamps the
cursor, in that order; it writes no result register. -/
def Obligations.RenderCopiesDamageThenCursor : Prop :=
  ∀ s : State, s.seqPhase = .idle → exec .render s = .next (rendered s)

/-! ## Sequencer and scheduled wake -/

/-- R321: SET_WAKE replaces any prior request, and a null target cancels it. -/
def Obligations.SetWakeReplacesOrCancels : Prop :=
  ∀ s : State, s.seqPhase = .idle ∨ s.seqPhase = .run →
    exec .setWake s = .next (
      if s.arg0 = 0 then { s with swPending := false, swSignal := 0, swTick := 0 }
      else { s with swPending := true, swSignal := s.arg0, swTick := s.arg1 })

/-- R322: CHECK_WAKE delivers a due wake once and clears it; nothing pending, no tick is sampled. -/
def Obligations.CheckWakeDeliversOnce : Prop :=
  ∀ s : State, s.seqPhase = .idle → exec .checkWake s = .next (wakeChecked s)

/-- R313: FRAME moves SEQ_PHASE to OFFSETS and changes nothing else. R323: TERMINATE sets TERM_FLAG; in RUN it goes to
TERMCHK, from IDLE to TERMINATED. In TERMINATED and FAULTED both are ignored. -/
def Obligations.FrameAndTerminateMoveThePhase : Prop :=
  ∀ s : State,
    (s.seqPhase = .idle → exec .frame s = .next { s with seqPhase := .offsets })
    ∧ (s.seqPhase = .run → exec .terminate s = .next { s with termFlag := true, seqPhase := .termchk })
    ∧ (s.seqPhase = .idle → exec .terminate s = .next { s with termFlag := true, seqPhase := .terminated })
    ∧ (s.seqPhase = .terminated ∨ s.seqPhase = .faulted → exec .frame s = .next s ∧ exec .terminate s = .next s)

/-- R314, R316, R318, R319, R320: the internal steps of every phase but POLL; and RunDone (R311), which ends phase RUN and
has no other effect. (When RunDone can come is the model's reading, log 19.) -/
def Obligations.InternalStepsRunTheFrameLoop : Prop :=
  ∀ s : State,
    (s.schedule = [] →
      (s.seqPhase = .offsets → step s = .next { withOffsets s with seqPhase := .poll })
      ∧ (s.seqPhase = .wake → step s = .next
          { wakeChecked s with
            trace := (wakeChecked s).trace ++ [.runRequest s.cyclesPerFrame], seqPhase := .run })
      ∧ (s.seqPhase = .termchk → step s = .next { s with seqPhase := if s.termFlag then .terminated else .render })
      ∧ (s.seqPhase = .render → step s = .next (
          if s.vsync ∨ s.frameDelay = 0 then { rendered s with seqPhase := .idle }
          else { rendered s with
            delayStart := s.clock.sampleTick.1, clock := s.clock.sampleTick.2, seqPhase := .delay }))
      ∧ (s.seqPhase = .delay → step s = .next (
          if s.frameDelay.toNat ≤ (2 ^ 32 + s.clock.sampleTick.1.toNat - s.delayStart.toNat) % 2 ^ 32 then
            { s with clock := s.clock.sampleTick.2, seqPhase := .idle }
          else { s with clock := s.clock.sampleTick.2 })))
    ∧ ∀ rest, s.schedule = .runDone :: rest → s.seqPhase = .run → s.peer.waiting = false →
        step s = .next { s with seqPhase := .termchk, schedule := rest }

/-- R315: in phase POLL the first keyboard report has exactly the effect of KEY_RAW or KEY_COOKED with its operands,
the port's registers apart; a fault stops the step there, and the writes before it stand. -/
def Obligations.PollRunsEachReportAsItsCommand : Prop :=
  ∀ (s t : State) (k : KeyReport) (ks : List KeyReport),
    s.schedule = [] → s.seqPhase = .poll → s.faultCode = 0 → s.kbd = k :: ks →
    exec (if s.cfg.kbdMode = .raw then .keyRaw else .keyCooked) (asCommand k s) = .next t →
    (t.seqPhase = .faulted → step s = .next { faultedWith s t.faultCode with kbd := [] })
    ∧ (t.seqPhase ≠ .faulted → step s = step { t with seqPhase := .poll, host := s.host, kbd := ks })

/-- R315: with no report left, phase POLL has exactly the effect of MOUSE_POLL with the mouse sample, then goes to
WAKE. -/
def Obligations.PollEndsWithTheMouse : Prop :=
  ∀ s t : State, s.schedule = [] → s.seqPhase = .poll → s.faultCode = 0 → s.kbd = [] →
    exec .mousePoll { s with
      seqPhase := .idle
      host := { s.host with arg0 := s.mouse.x, arg1 := s.mouse.y, arg2 := s.mouse.btn } } = .next t →
    step s = .next (
      if t.seqPhase = .faulted then faultedWith s t.faultCode else { t with host := s.host, seqPhase := .wake })

/-- R327, R317: with no report, an unchanged mouse, no wake pending and no damage, a whole iteration from FRAME over
RunDone back to IDLE appends exactly the RunRequest to the output trace. -/
def Obligations.QuietIterationOnlyRequestsTheRun : Prop :=
  ∀ s : State, s.seqPhase = .idle → s.host.waiting = true → s.host.cmd = 1 → s.peer.waiting = false →
    s.schedule = [.runDone] → s.cyclesPerFrame = 100 → s.vsync = true → s.termFlag = false →
    s.drW = 0 ∨ s.drH = 0 → s.swPending = false → s.kbd = [] →
    s.cfg.motionPolicy = .onChange → s.mposValid = true →
    s.mouse.x.toNat = s.lastMx.toNat → s.mouse.y.toNat = s.lastMy.toNat →
    maskBit s.mouse.btn 1 = s.btn0.down → maskBit s.mouse.btn 2 = s.btn1.down → maskBit s.mouse.btn 4 = s.btn2.down →
    ∃ t, Host.Core.run core 7 s = .next t ∧ t.seqPhase = .idle ∧ t.trace = s.trace ++ [.runRequest 100]

/-! ## Control and status registers -/

/-- R340, R341, R60: CSR_READ returns the value R340 lays out, in RES0 of the live port, wherever commands are
accepted; nothing else changes. Every index from 0x1C on is undefined: BAD_CSR (code 6), but while halted RES0 is
unchanged and no fault is raised (R368). -/
def Obligations.CsrReadReturnsTheMappedValue : Prop :=
  (∀ (s : State) (i v : Nat), (i, v) ∈ csrMap s → s.arg0.toNat = i →
    (s.seqPhase = .run → exec .csrRead s = .next { s with peer := { s.peer with res0 := BitVec.ofNat 32 v } })
    ∧ (s.seqPhase = .idle ∨ s.seqPhase = .terminated ∨ s.seqPhase = .faulted →
        exec .csrRead s = .next { s with host := { s.host with res0 := BitVec.ofNat 32 v } }))
  ∧ ∀ s : State, 0x1C ≤ s.arg0.toNat →
    (s.seqPhase = .idle ∨ s.seqPhase = .run → exec .csrRead s = .next (faultedWith s 6))
    ∧ (s.seqPhase = .terminated ∨ s.seqPhase = .faulted → exec .csrRead s = .next s)

/-- R342: CSR_WRITE, every index. -/
def Obligations.CsrWriteWritesOnlyItsRegister : Prop :=
  ∀ s : State, s.seqPhase = .idle →
    let v := s.arg1
    exec .csrWrite s = .next (
      match s.arg0.toNat with
      | 0x00 => { s with
          qOvf := if v.getLsbD 0 then false else s.qOvf
          decErr := if v.getLsbD 1 then false else s.decErr }
      | 0x01 => { s with ctrl := BitVec.ofNat 32 (v.toNat % 4) }
      | 0x03 => { s with cyclesPerFrame := v }
      | 0x04 => { s with frameDelay := v }
      | 0x05 => { s with fgColor := v }
      | 0x06 => { s with bgColor := v }
      | 0x07 => { s with cursorColor := v }
      | _ => faultedWith s 6)

/-- R343: NOP writes no state. That `exec` answers so in the phases that accept no command too is the model's reading
(log 10). -/
def Obligations.NopWritesNothing : Prop := ∀ s : State, exec .nop s = .next s

/-! ## Pseudo-instructions -/

/-- R115: a pseudo-instruction presented at the live port does in the next step what it stands for, whatever the port's
registers held before; the argument registers its expansion does not take are left as they were (R114). The two that
clear a STATUS bit are of class H, so in RUN they fault ILLEGAL_CMD (R312). -/
def Obligations.PseudoInstructionsDoWhatTheyName : Prop :=
  ∀ s : State, s.schedule = [] →
    (s.seqPhase = .idle → s.host.waiting = false →
      let line := fun x => step { s with host := s.host.presentPseudo x }
      line .cancelWake = .next
        { s with
          host := { s.host with cmd := 0x23, arg0 := 0, arg1 := 0 }, swPending := false, swSignal := 0, swTick := 0 }
      ∧ line .unregisterInput = .next { s with host := { s.host with cmd := 0x20, arg0 := 0 }, inSig := 0 }
      ∧ line .clearOvf = .next { s with host := { s.host with cmd := 0x09, arg0 := 0, arg1 := 1 }, qOvf := false }
      ∧ line .clearDecErr = .next { s with host := { s.host with cmd := 0x09, arg0 := 0, arg1 := 2 }, decErr := false }
      ∧ line .readStatus = .next
        { s with host := { s.host with cmd := 0x08, arg0 := 0, res0 := BitVec.ofNat 32 (statusBits s) } })
    ∧ (s.seqPhase = .run → s.peer.waiting = false →
      let line := fun x => step { s with peer := s.peer.presentPseudo x }
      line .cancelWake = .next
        { s with
          peer := { s.peer with cmd := 0x23, arg0 := 0, arg1 := 0 }, swPending := false, swSignal := 0, swTick := 0 }
      ∧ line .unregisterInput = .next { s with peer := { s.peer with cmd := 0x20, arg0 := 0 }, inSig := 0 }
      ∧ line .clearOvf = .next (faultedWith { s with peer := { s.peer with cmd := 0x09, arg0 := 0, arg1 := 1 } } 5)
      ∧ line .clearDecErr = .next (faultedWith { s with peer := { s.peer with cmd := 0x09, arg0 := 0, arg1 := 2 } } 5)
      ∧ line .readStatus = .next
        { s with peer := { s.peer with cmd := 0x08, arg0 := 0, res0 := BitVec.ofNat 32 (statusBits s) } })
end

