-- ==== Sys2Proof/Laws/Cells.lean ====
section
/-! SUPPORT. The laws of sparse storage: read after write, the canonical form kept, equal contents equal lists. -/

namespace Sys2Proof

variable {w : Nat}

theorem Cells.wfFrom_mono {lo lo' : Nat} (h : lo' ≤ lo) (m : Cells w) (hm : Cells.wfFrom lo m = true) :
    Cells.wfFrom lo' m = true := by
  cases m with
  | nil => rfl
  | cons p m =>
    obtain ⟨b, u⟩ := p
    simp only [Cells.wfFrom, Bool.and_eq_true, decide_eq_true_eq] at hm ⊢
    exact ⟨⟨by omega, hm.1.2⟩, hm.2⟩

/-- Below its lower bound, canonical storage lists nothing. -/
theorem Cells.read_eq_zero_of_lt {lo a : Nat} (m : Cells w) (hm : Cells.wfFrom lo m = true) (ha : a < lo) :
    Cells.read m a = 0#w := by
  cases m with
  | nil => rfl
  | cons p m =>
    obtain ⟨b, u⟩ := p
    simp only [Cells.wfFrom, Bool.and_eq_true, decide_eq_true_eq] at hm
    simp only [Cells.read]
    rw [if_neg (by omega), if_pos (by omega)]

theorem Cells.read_write_same_from {lo a : Nat} {v : BitVec w} (m : Cells w) (hm : Cells.wfFrom lo m = true) :
    Cells.read (Cells.write m a v) a = v := by
  induction m generalizing lo with
  | nil => by_cases hv : v = 0#w <;> simp [Cells.write, Cells.read, hv]
  | cons p m ih =>
    obtain ⟨b, u⟩ := p
    simp only [Cells.wfFrom, Bool.and_eq_true, decide_eq_true_eq] at hm
    simp only [Cells.write]
    by_cases h1 : a < b
    · by_cases hv : v = 0#w
      · simp [h1, hv, Cells.read, show a ≠ b by omega]
      · simp [h1, hv, Cells.read]
    · by_cases h2 : a = b
      · subst h2
        by_cases hv : v = 0#w
        · simp [hv, Cells.read_eq_zero_of_lt m hm.2 (Nat.lt_succ_self a)]
        · simp [hv, Cells.read]
      · simp [h1, h2, Cells.read, ih hm.2]

theorem Cells.read_write_other_from {lo a a' : Nat} {v : BitVec w} (m : Cells w) (hm : Cells.wfFrom lo m = true)
    (h : a' ≠ a) : Cells.read (Cells.write m a v) a' = Cells.read m a' := by
  induction m generalizing lo with
  | nil => by_cases hv : v = 0#w <;> simp [Cells.write, Cells.read, hv, h]
  | cons p m ih =>
    obtain ⟨b, u⟩ := p
    simp only [Cells.wfFrom, Bool.and_eq_true, decide_eq_true_eq] at hm
    simp only [Cells.write]
    by_cases h1 : a < b
    · by_cases hv : v = 0#w
      · simp [h1, hv]
      · simp only [h1, hv, if_true, if_false, Cells.read, h]
        by_cases h3 : a' < a
        · simp [h3, show a' ≠ b by omega, show a' < b by omega]
        · simp [h3]
    · by_cases h2 : a = b
      · subst h2
        by_cases hv : v = 0#w
        · simp only [lt_self_iff_false, if_false, if_true, hv, Cells.read, h]
          by_cases h3 : a' < a
          · simp [h3, Cells.read_eq_zero_of_lt m hm.2 (show a' < a + 1 by omega)]
          · simp [h3]
        · simp [hv, Cells.read, h]
      · simp only [h1, h2, if_false, Cells.read]
        rw [ih hm.2]

theorem Cells.wfFrom_write {lo a : Nat} {v : BitVec w} (m : Cells w) (hm : Cells.wfFrom lo m = true)
    (hlo : lo ≤ a) : Cells.wfFrom lo (Cells.write m a v) = true := by
  induction m generalizing lo with
  | nil => by_cases hv : v = 0#w <;> simp [Cells.write, Cells.wfFrom, hv, hlo]
  | cons p m ih =>
    obtain ⟨b, u⟩ := p
    have hm' := hm
    simp only [Cells.wfFrom, Bool.and_eq_true, decide_eq_true_eq] at hm
    simp only [Cells.write]
    by_cases h1 : a < b
    · by_cases hv : v = 0#w
      · simpa [h1, hv] using hm'
      · simp only [h1, hv, if_true, if_false, Cells.wfFrom, Bool.and_eq_true, decide_eq_true_eq]
        exact ⟨⟨hlo, hv⟩, ⟨by omega, hm.1.2⟩, hm.2⟩
    · by_cases h2 : a = b
      · subst h2
        by_cases hv : v = 0#w
        · simpa [hv] using Cells.wfFrom_mono (by omega) m hm.2
        · simp only [lt_self_iff_false, if_false, if_true, hv, Cells.wfFrom, Bool.and_eq_true, decide_eq_true_eq]
          exact ⟨⟨hlo, hv⟩, hm.2⟩
      · simp only [h1, h2, if_false, Cells.wfFrom, Bool.and_eq_true, decide_eq_true_eq]
        exact ⟨⟨hm.1.1, hm.1.2⟩, ih hm.2 (by omega)⟩

/-- A read after a write to the same index gives the value written. -/
theorem Cells.read_write_same {a : Nat} {v : BitVec w} (m : Cells w) (hm : m.wf = true) :
    Cells.read (Cells.write m a v) a = v := Cells.read_write_same_from m hm

/-- A write leaves every other index alone. -/
theorem Cells.read_write_other {a a' : Nat} {v : BitVec w} (m : Cells w) (hm : m.wf = true) (h : a' ≠ a) :
    Cells.read (Cells.write m a v) a' = Cells.read m a' := Cells.read_write_other_from m hm h

/-- A write keeps the canonical form. -/
theorem Cells.wf_write {a : Nat} {v : BitVec w} (m : Cells w) (hm : m.wf = true) :
    (Cells.write m a v).wf = true := Cells.wfFrom_write m hm (Nat.zero_le a)

/-- Storage built from a list of units is canonical. -/
theorem Cells.wf_ofList (l : List (Nat × BitVec w)) : (Cells.ofList l).wf = true := by
  have h : ∀ m : Cells w, m.wf = true → (l.foldl (fun m p => Cells.write m p.1 p.2) m).wf = true := by
    induction l with
    | nil => intro m hm; exact hm
    | cons p l ih => intro m hm; exact ih _ (Cells.wf_write m hm)
  exact h [] rfl

/-- Canonical storages with the same contents are the same list. -/
theorem Cells.ext_of_read {lo : Nat} (m m' : Cells w) (hm : Cells.wfFrom lo m = true)
    (hm' : Cells.wfFrom lo m' = true) (h : ∀ a, Cells.read m a = Cells.read m' a) : m = m' := by
  induction m generalizing lo m' with
  | nil =>
    cases m' with
    | nil => rfl
    | cons p m' =>
      obtain ⟨b, u⟩ := p
      simp only [Cells.wfFrom, Bool.and_eq_true, decide_eq_true_eq] at hm'
      exact absurd (by simpa [Cells.read] using (h b).symm) hm'.1.2
  | cons p m ih =>
    obtain ⟨b, u⟩ := p
    simp only [Cells.wfFrom, Bool.and_eq_true, decide_eq_true_eq] at hm
    cases m' with
    | nil => exact absurd (by simpa [Cells.read] using h b) hm.1.2
    | cons p' m' =>
      obtain ⟨b', u'⟩ := p'
      simp only [Cells.wfFrom, Bool.and_eq_true, decide_eq_true_eq] at hm'
      have hb : b = b' := by
        rcases Nat.lt_trichotomy b b' with hlt | heq | hgt
        · have := h b
          simp [Cells.read, Nat.ne_of_lt hlt, hlt] at this
          exact absurd this hm.1.2
        · exact heq
        · have := h b'
          simp [Cells.read, Nat.ne_of_lt hgt, hgt] at this
          exact absurd this.symm hm'.1.2
      subst hb
      have hu : u = u' := by simpa [Cells.read] using h b
      subst hu
      have : m = m' := by
        apply ih m' hm.2 hm'.2
        intro a
        rcases Nat.lt_or_ge a (b + 1) with hlt | hge
        · rw [Cells.read_eq_zero_of_lt m hm.2 hlt, Cells.read_eq_zero_of_lt m' hm'.2 hlt]
        · have := h a
          simpa [Cells.read, show a ≠ b by omega, show ¬ a < b by omega] using this
      rw [this]

end Sys2Proof
end

