-- ==== Sys2Proof/Laws/Decode.lean ====
section
/-! SUPPORT. The fields of a packed event word, and the value of a packed word. -/

namespace Sys2Proof

@[simp] theorem eventType_packFields (t : BitVec 4) (p : BitVec 12) : eventType (packFields t p) = t := by
  apply BitVec.eq_of_getLsbD_eq
  intro i h
  simp only [eventType, packFields, BitVec.getLsbD_append, BitVec.getLsbD_extractLsb']
  simp [h]

@[simp] theorem eventParam_packFields (t : BitVec 4) (p : BitVec 12) : eventParam (packFields t p) = p := by
  apply BitVec.eq_of_getLsbD_eq
  intro i h
  simp only [eventParam, packFields, BitVec.getLsbD_append, BitVec.getLsbD_extractLsb']
  simp [h]

@[simp] theorem packFields_eventType_eventParam (w : Half) : packFields (eventType w) (eventParam w) = w := by
  apply BitVec.eq_of_getLsbD_eq
  intro i h
  simp only [eventParam, eventType, packFields, BitVec.getLsbD_append, BitVec.getLsbD_extractLsb']
  by_cases h2 : i < 12
  · simp [h2]
  · simp [h2, show i - 12 < 4 by omega, show 12 + (i - 12) = i by omega]

/-- A packed word as a number: the type at weight 2^12, the parameter at weight 1. -/
theorem packFields_toNat (t : BitVec 4) (p : BitVec 12) : (packFields t p).toNat = 2 ^ 12 * t.toNat + p.toNat := by
  unfold packFields
  rw [BitVec.toNat_append, ← Nat.shiftLeft_add_eq_or_of_lt p.isLt, Nat.shiftLeft_eq]
  omega

/-- CMD[31:8] is 0 exactly when the word is below 256. -/
theorem extract_high_eq_zero (cmd : Word) : cmd.extractLsb' 8 24 = 0 ↔ cmd.toNat < 256 := by
  have hlt := cmd.isLt
  have hv : (cmd.extractLsb' 8 24).toNat = cmd.toNat / 2 ^ 8 := by
    rw [BitVec.extractLsb'_toNat, Nat.shiftRight_eq_div_pow, Nat.mod_eq_of_lt]
    omega
  rw [← BitVec.toNat_inj, hv]
  constructor
  · intro h
    have : cmd.toNat / 2 ^ 8 = 0 := h
    omega
  · intro h
    show cmd.toNat / 2 ^ 8 = 0
    omega

end Sys2Proof
end

