-- ==== Sys2Proof/Laws/State.lean ====
section
/-! SUPPORT. What each named update of State leaves in each field: one lemma per field per update. -/

namespace Sys2Proof.Machine

variable (s : State)

/-! Appending to the output trace. -/

@[simp] theorem State.emitOutputs_cfg (es : List Output) : (s.emitOutputs es).cfg = s.cfg := rfl
@[simp] theorem State.emitOutputs_host (es : List Output) : (s.emitOutputs es).host = s.host := rfl
@[simp] theorem State.emitOutputs_peer (es : List Output) : (s.emitOutputs es).peer = s.peer := rfl
@[simp] theorem State.emitOutputs_lastTick (es : List Output) : (s.emitOutputs es).lastTick = s.lastTick := rfl
@[simp] theorem State.emitOutputs_tsValid (es : List Output) : (s.emitOutputs es).tsValid = s.tsValid := rfl
@[simp] theorem State.emitOutputs_evtCount (es : List Output) : (s.emitOutputs es).evtCount = s.evtCount := rfl
@[simp] theorem State.emitOutputs_decPhase (es : List Output) : (s.emitOutputs es).decPhase = s.decPhase := rfl
@[simp] theorem State.emitOutputs_decHi (es : List Output) : (s.emitOutputs es).decHi = s.decHi := rfl
@[simp] theorem State.emitOutputs_decXy (es : List Output) : (s.emitOutputs es).decXy = s.decXy := rfl
@[simp] theorem State.emitOutputs_decErr (es : List Output) : (s.emitOutputs es).decErr = s.decErr := rfl
@[simp] theorem State.emitOutputs_modState (es : List Output) : (s.emitOutputs es).modState = s.modState := rfl
@[simp] theorem State.emitOutputs_caps (es : List Output) : (s.emitOutputs es).caps = s.caps := rfl
@[simp] theorem State.emitOutputs_btn0 (es : List Output) : (s.emitOutputs es).btn0 = s.btn0 := rfl
@[simp] theorem State.emitOutputs_btn1 (es : List Output) : (s.emitOutputs es).btn1 = s.btn1 := rfl
@[simp] theorem State.emitOutputs_btn2 (es : List Output) : (s.emitOutputs es).btn2 = s.btn2 := rfl
@[simp] theorem State.emitOutputs_mposValid (es : List Output) : (s.emitOutputs es).mposValid = s.mposValid := rfl
@[simp] theorem State.emitOutputs_lastMx (es : List Output) : (s.emitOutputs es).lastMx = s.lastMx := rfl
@[simp] theorem State.emitOutputs_lastMy (es : List Output) : (s.emitOutputs es).lastMy = s.lastMy := rfl
@[simp] theorem State.emitOutputs_curNewX (es : List Output) : (s.emitOutputs es).curNewX = s.curNewX := rfl
@[simp] theorem State.emitOutputs_curNewY (es : List Output) : (s.emitOutputs es).curNewY = s.curNewY := rfl
@[simp] theorem State.emitOutputs_q (es : List Output) : (s.emitOutputs es).q = s.q := rfl
@[simp] theorem State.emitOutputs_qHead (es : List Output) : (s.emitOutputs es).qHead = s.qHead := rfl
@[simp] theorem State.emitOutputs_qCount (es : List Output) : (s.emitOutputs es).qCount = s.qCount := rfl
@[simp] theorem State.emitOutputs_qOvf (es : List Output) : (s.emitOutputs es).qOvf = s.qOvf := rfl
@[simp] theorem State.emitOutputs_inSig (es : List Output) : (s.emitOutputs es).inSig = s.inSig := rfl
@[simp] theorem State.emitOutputs_drX (es : List Output) : (s.emitOutputs es).drX = s.drX := rfl
@[simp] theorem State.emitOutputs_drY (es : List Output) : (s.emitOutputs es).drY = s.drY := rfl
@[simp] theorem State.emitOutputs_drW (es : List Output) : (s.emitOutputs es).drW = s.drW := rfl
@[simp] theorem State.emitOutputs_drH (es : List Output) : (s.emitOutputs es).drH = s.drH := rfl
@[simp] theorem State.emitOutputs_curPrevX (es : List Output) : (s.emitOutputs es).curPrevX = s.curPrevX := rfl
@[simp] theorem State.emitOutputs_curPrevY (es : List Output) : (s.emitOutputs es).curPrevY = s.curPrevY := rfl
@[simp] theorem State.emitOutputs_offX (es : List Output) : (s.emitOutputs es).offX = s.offX := rfl
@[simp] theorem State.emitOutputs_offY (es : List Output) : (s.emitOutputs es).offY = s.offY := rfl
@[simp] theorem State.emitOutputs_swPending (es : List Output) : (s.emitOutputs es).swPending = s.swPending := rfl
@[simp] theorem State.emitOutputs_swSignal (es : List Output) : (s.emitOutputs es).swSignal = s.swSignal := rfl
@[simp] theorem State.emitOutputs_swTick (es : List Output) : (s.emitOutputs es).swTick = s.swTick := rfl
@[simp] theorem State.emitOutputs_seqPhase (es : List Output) : (s.emitOutputs es).seqPhase = s.seqPhase := rfl
@[simp] theorem State.emitOutputs_termFlag (es : List Output) : (s.emitOutputs es).termFlag = s.termFlag := rfl
@[simp] theorem State.emitOutputs_faultCode (es : List Output) : (s.emitOutputs es).faultCode = s.faultCode := rfl
@[simp] theorem State.emitOutputs_delayStart (es : List Output) : (s.emitOutputs es).delayStart = s.delayStart := rfl
@[simp] theorem State.emitOutputs_ctrl (es : List Output) : (s.emitOutputs es).ctrl = s.ctrl := rfl
@[simp] theorem State.emitOutputs_cyclesPerFrame (es : List Output) : (s.emitOutputs es).cyclesPerFrame = s.cyclesPerFrame := rfl
@[simp] theorem State.emitOutputs_frameDelay (es : List Output) : (s.emitOutputs es).frameDelay = s.frameDelay := rfl
@[simp] theorem State.emitOutputs_fgColor (es : List Output) : (s.emitOutputs es).fgColor = s.fgColor := rfl
@[simp] theorem State.emitOutputs_bgColor (es : List Output) : (s.emitOutputs es).bgColor = s.bgColor := rfl
@[simp] theorem State.emitOutputs_cursorColor (es : List Output) : (s.emitOutputs es).cursorColor = s.cursorColor := rfl
@[simp] theorem State.emitOutputs_trace (es : List Output) : (s.emitOutputs es).trace = s.trace ++ es := rfl
@[simp] theorem State.emitOutputs_clock (es : List Output) : (s.emitOutputs es).clock = s.clock := rfl
@[simp] theorem State.emitOutputs_kbd (es : List Output) : (s.emitOutputs es).kbd = s.kbd := rfl
@[simp] theorem State.emitOutputs_mouse (es : List Output) : (s.emitOutputs es).mouse = s.mouse := rfl
@[simp] theorem State.emitOutputs_screen (es : List Output) : (s.emitOutputs es).screen = s.screen := rfl
@[simp] theorem State.emitOutputs_display (es : List Output) : (s.emitOutputs es).display = s.display := rfl
@[simp] theorem State.emitOutputs_schedule (es : List Output) : (s.emitOutputs es).schedule = s.schedule := rfl

/-! The fault transition. -/

@[simp] theorem State.takeFault_cfg (c : FaultCode) : (s.takeFault c).cfg = s.cfg := rfl
@[simp] theorem State.takeFault_host (c : FaultCode) : (s.takeFault c).host = s.host := rfl
@[simp] theorem State.takeFault_peer (c : FaultCode) : (s.takeFault c).peer = s.peer := rfl
@[simp] theorem State.takeFault_lastTick (c : FaultCode) : (s.takeFault c).lastTick = s.lastTick := rfl
@[simp] theorem State.takeFault_tsValid (c : FaultCode) : (s.takeFault c).tsValid = s.tsValid := rfl
@[simp] theorem State.takeFault_evtCount (c : FaultCode) : (s.takeFault c).evtCount = s.evtCount := rfl
@[simp] theorem State.takeFault_decPhase (c : FaultCode) : (s.takeFault c).decPhase = s.decPhase := rfl
@[simp] theorem State.takeFault_decHi (c : FaultCode) : (s.takeFault c).decHi = s.decHi := rfl
@[simp] theorem State.takeFault_decXy (c : FaultCode) : (s.takeFault c).decXy = s.decXy := rfl
@[simp] theorem State.takeFault_decErr (c : FaultCode) : (s.takeFault c).decErr = s.decErr := rfl
@[simp] theorem State.takeFault_modState (c : FaultCode) : (s.takeFault c).modState = s.modState := rfl
@[simp] theorem State.takeFault_caps (c : FaultCode) : (s.takeFault c).caps = s.caps := rfl
@[simp] theorem State.takeFault_btn0 (c : FaultCode) : (s.takeFault c).btn0 = s.btn0 := rfl
@[simp] theorem State.takeFault_btn1 (c : FaultCode) : (s.takeFault c).btn1 = s.btn1 := rfl
@[simp] theorem State.takeFault_btn2 (c : FaultCode) : (s.takeFault c).btn2 = s.btn2 := rfl
@[simp] theorem State.takeFault_mposValid (c : FaultCode) : (s.takeFault c).mposValid = s.mposValid := rfl
@[simp] theorem State.takeFault_lastMx (c : FaultCode) : (s.takeFault c).lastMx = s.lastMx := rfl
@[simp] theorem State.takeFault_lastMy (c : FaultCode) : (s.takeFault c).lastMy = s.lastMy := rfl
@[simp] theorem State.takeFault_curNewX (c : FaultCode) : (s.takeFault c).curNewX = s.curNewX := rfl
@[simp] theorem State.takeFault_curNewY (c : FaultCode) : (s.takeFault c).curNewY = s.curNewY := rfl
@[simp] theorem State.takeFault_q (c : FaultCode) : (s.takeFault c).q = s.q := rfl
@[simp] theorem State.takeFault_qHead (c : FaultCode) : (s.takeFault c).qHead = s.qHead := rfl
@[simp] theorem State.takeFault_qCount (c : FaultCode) : (s.takeFault c).qCount = s.qCount := rfl
@[simp] theorem State.takeFault_qOvf (c : FaultCode) : (s.takeFault c).qOvf = s.qOvf := rfl
@[simp] theorem State.takeFault_inSig (c : FaultCode) : (s.takeFault c).inSig = s.inSig := rfl
@[simp] theorem State.takeFault_drX (c : FaultCode) : (s.takeFault c).drX = s.drX := rfl
@[simp] theorem State.takeFault_drY (c : FaultCode) : (s.takeFault c).drY = s.drY := rfl
@[simp] theorem State.takeFault_drW (c : FaultCode) : (s.takeFault c).drW = s.drW := rfl
@[simp] theorem State.takeFault_drH (c : FaultCode) : (s.takeFault c).drH = s.drH := rfl
@[simp] theorem State.takeFault_curPrevX (c : FaultCode) : (s.takeFault c).curPrevX = s.curPrevX := rfl
@[simp] theorem State.takeFault_curPrevY (c : FaultCode) : (s.takeFault c).curPrevY = s.curPrevY := rfl
@[simp] theorem State.takeFault_offX (c : FaultCode) : (s.takeFault c).offX = s.offX := rfl
@[simp] theorem State.takeFault_offY (c : FaultCode) : (s.takeFault c).offY = s.offY := rfl
@[simp] theorem State.takeFault_swPending (c : FaultCode) : (s.takeFault c).swPending = s.swPending := rfl
@[simp] theorem State.takeFault_swSignal (c : FaultCode) : (s.takeFault c).swSignal = s.swSignal := rfl
@[simp] theorem State.takeFault_swTick (c : FaultCode) : (s.takeFault c).swTick = s.swTick := rfl
@[simp] theorem State.takeFault_seqPhase (c : FaultCode) : (s.takeFault c).seqPhase = .faulted := rfl
@[simp] theorem State.takeFault_termFlag (c : FaultCode) : (s.takeFault c).termFlag = s.termFlag := rfl
@[simp] theorem State.takeFault_faultCode (c : FaultCode) : (s.takeFault c).faultCode = if s.faultCode = 0 then c.code else s.faultCode := rfl
@[simp] theorem State.takeFault_delayStart (c : FaultCode) : (s.takeFault c).delayStart = s.delayStart := rfl
@[simp] theorem State.takeFault_ctrl (c : FaultCode) : (s.takeFault c).ctrl = s.ctrl := rfl
@[simp] theorem State.takeFault_cyclesPerFrame (c : FaultCode) : (s.takeFault c).cyclesPerFrame = s.cyclesPerFrame := rfl
@[simp] theorem State.takeFault_frameDelay (c : FaultCode) : (s.takeFault c).frameDelay = s.frameDelay := rfl
@[simp] theorem State.takeFault_fgColor (c : FaultCode) : (s.takeFault c).fgColor = s.fgColor := rfl
@[simp] theorem State.takeFault_bgColor (c : FaultCode) : (s.takeFault c).bgColor = s.bgColor := rfl
@[simp] theorem State.takeFault_cursorColor (c : FaultCode) : (s.takeFault c).cursorColor = s.cursorColor := rfl
@[simp] theorem State.takeFault_trace (c : FaultCode) : (s.takeFault c).trace = s.trace := rfl
@[simp] theorem State.takeFault_clock (c : FaultCode) : (s.takeFault c).clock = s.clock := rfl
@[simp] theorem State.takeFault_kbd (c : FaultCode) : (s.takeFault c).kbd = s.kbd := rfl
@[simp] theorem State.takeFault_mouse (c : FaultCode) : (s.takeFault c).mouse = s.mouse := rfl
@[simp] theorem State.takeFault_screen (c : FaultCode) : (s.takeFault c).screen = s.screen := rfl
@[simp] theorem State.takeFault_display (c : FaultCode) : (s.takeFault c).display = s.display := rfl
@[simp] theorem State.takeFault_schedule (c : FaultCode) : (s.takeFault c).schedule = s.schedule := rfl

/-! Dequeue. -/

@[simp] theorem State.dequeue_cfg : (s.dequeue).cfg = s.cfg := rfl
@[simp] theorem State.dequeue_host : (s.dequeue).host = s.host := rfl
@[simp] theorem State.dequeue_peer : (s.dequeue).peer = s.peer := rfl
@[simp] theorem State.dequeue_lastTick : (s.dequeue).lastTick = s.lastTick := rfl
@[simp] theorem State.dequeue_tsValid : (s.dequeue).tsValid = s.tsValid := rfl
@[simp] theorem State.dequeue_evtCount : (s.dequeue).evtCount = s.evtCount := rfl
@[simp] theorem State.dequeue_decPhase : (s.dequeue).decPhase = s.decPhase := rfl
@[simp] theorem State.dequeue_decHi : (s.dequeue).decHi = s.decHi := rfl
@[simp] theorem State.dequeue_decXy : (s.dequeue).decXy = s.decXy := rfl
@[simp] theorem State.dequeue_decErr : (s.dequeue).decErr = s.decErr := rfl
@[simp] theorem State.dequeue_modState : (s.dequeue).modState = s.modState := rfl
@[simp] theorem State.dequeue_caps : (s.dequeue).caps = s.caps := rfl
@[simp] theorem State.dequeue_btn0 : (s.dequeue).btn0 = s.btn0 := rfl
@[simp] theorem State.dequeue_btn1 : (s.dequeue).btn1 = s.btn1 := rfl
@[simp] theorem State.dequeue_btn2 : (s.dequeue).btn2 = s.btn2 := rfl
@[simp] theorem State.dequeue_mposValid : (s.dequeue).mposValid = s.mposValid := rfl
@[simp] theorem State.dequeue_lastMx : (s.dequeue).lastMx = s.lastMx := rfl
@[simp] theorem State.dequeue_lastMy : (s.dequeue).lastMy = s.lastMy := rfl
@[simp] theorem State.dequeue_curNewX : (s.dequeue).curNewX = s.curNewX := rfl
@[simp] theorem State.dequeue_curNewY : (s.dequeue).curNewY = s.curNewY := rfl
@[simp] theorem State.dequeue_q : (s.dequeue).q = s.q := rfl
@[simp] theorem State.dequeue_qHead : (s.dequeue).qHead = (s.qHead + 1) % s.cfg.qdepth := rfl
@[simp] theorem State.dequeue_qCount : (s.dequeue).qCount = s.qCount - 1 := rfl
@[simp] theorem State.dequeue_qOvf : (s.dequeue).qOvf = s.qOvf := rfl
@[simp] theorem State.dequeue_inSig : (s.dequeue).inSig = s.inSig := rfl
@[simp] theorem State.dequeue_drX : (s.dequeue).drX = s.drX := rfl
@[simp] theorem State.dequeue_drY : (s.dequeue).drY = s.drY := rfl
@[simp] theorem State.dequeue_drW : (s.dequeue).drW = s.drW := rfl
@[simp] theorem State.dequeue_drH : (s.dequeue).drH = s.drH := rfl
@[simp] theorem State.dequeue_curPrevX : (s.dequeue).curPrevX = s.curPrevX := rfl
@[simp] theorem State.dequeue_curPrevY : (s.dequeue).curPrevY = s.curPrevY := rfl
@[simp] theorem State.dequeue_offX : (s.dequeue).offX = s.offX := rfl
@[simp] theorem State.dequeue_offY : (s.dequeue).offY = s.offY := rfl
@[simp] theorem State.dequeue_swPending : (s.dequeue).swPending = s.swPending := rfl
@[simp] theorem State.dequeue_swSignal : (s.dequeue).swSignal = s.swSignal := rfl
@[simp] theorem State.dequeue_swTick : (s.dequeue).swTick = s.swTick := rfl
@[simp] theorem State.dequeue_seqPhase : (s.dequeue).seqPhase = s.seqPhase := rfl
@[simp] theorem State.dequeue_termFlag : (s.dequeue).termFlag = s.termFlag := rfl
@[simp] theorem State.dequeue_faultCode : (s.dequeue).faultCode = s.faultCode := rfl
@[simp] theorem State.dequeue_delayStart : (s.dequeue).delayStart = s.delayStart := rfl
@[simp] theorem State.dequeue_ctrl : (s.dequeue).ctrl = s.ctrl := rfl
@[simp] theorem State.dequeue_cyclesPerFrame : (s.dequeue).cyclesPerFrame = s.cyclesPerFrame := rfl
@[simp] theorem State.dequeue_frameDelay : (s.dequeue).frameDelay = s.frameDelay := rfl
@[simp] theorem State.dequeue_fgColor : (s.dequeue).fgColor = s.fgColor := rfl
@[simp] theorem State.dequeue_bgColor : (s.dequeue).bgColor = s.bgColor := rfl
@[simp] theorem State.dequeue_cursorColor : (s.dequeue).cursorColor = s.cursorColor := rfl
@[simp] theorem State.dequeue_trace : (s.dequeue).trace = s.trace := rfl
@[simp] theorem State.dequeue_clock : (s.dequeue).clock = s.clock := rfl
@[simp] theorem State.dequeue_kbd : (s.dequeue).kbd = s.kbd := rfl
@[simp] theorem State.dequeue_mouse : (s.dequeue).mouse = s.mouse := rfl
@[simp] theorem State.dequeue_screen : (s.dequeue).screen = s.screen := rfl
@[simp] theorem State.dequeue_display : (s.dequeue).display = s.display := rfl
@[simp] theorem State.dequeue_schedule : (s.dequeue).schedule = s.schedule := rfl

/-! A write to STATUS. -/

@[simp] theorem State.writeStatus_cfg (v : Word) : (s.writeStatus v).cfg = s.cfg := rfl
@[simp] theorem State.writeStatus_host (v : Word) : (s.writeStatus v).host = s.host := rfl
@[simp] theorem State.writeStatus_peer (v : Word) : (s.writeStatus v).peer = s.peer := rfl
@[simp] theorem State.writeStatus_lastTick (v : Word) : (s.writeStatus v).lastTick = s.lastTick := rfl
@[simp] theorem State.writeStatus_tsValid (v : Word) : (s.writeStatus v).tsValid = s.tsValid := rfl
@[simp] theorem State.writeStatus_evtCount (v : Word) : (s.writeStatus v).evtCount = s.evtCount := rfl
@[simp] theorem State.writeStatus_decPhase (v : Word) : (s.writeStatus v).decPhase = s.decPhase := rfl
@[simp] theorem State.writeStatus_decHi (v : Word) : (s.writeStatus v).decHi = s.decHi := rfl
@[simp] theorem State.writeStatus_decXy (v : Word) : (s.writeStatus v).decXy = s.decXy := rfl
@[simp] theorem State.writeStatus_decErr (v : Word) : (s.writeStatus v).decErr = (s.decErr && !v.getLsbD 1) := rfl
@[simp] theorem State.writeStatus_modState (v : Word) : (s.writeStatus v).modState = s.modState := rfl
@[simp] theorem State.writeStatus_caps (v : Word) : (s.writeStatus v).caps = s.caps := rfl
@[simp] theorem State.writeStatus_btn0 (v : Word) : (s.writeStatus v).btn0 = s.btn0 := rfl
@[simp] theorem State.writeStatus_btn1 (v : Word) : (s.writeStatus v).btn1 = s.btn1 := rfl
@[simp] theorem State.writeStatus_btn2 (v : Word) : (s.writeStatus v).btn2 = s.btn2 := rfl
@[simp] theorem State.writeStatus_mposValid (v : Word) : (s.writeStatus v).mposValid = s.mposValid := rfl
@[simp] theorem State.writeStatus_lastMx (v : Word) : (s.writeStatus v).lastMx = s.lastMx := rfl
@[simp] theorem State.writeStatus_lastMy (v : Word) : (s.writeStatus v).lastMy = s.lastMy := rfl
@[simp] theorem State.writeStatus_curNewX (v : Word) : (s.writeStatus v).curNewX = s.curNewX := rfl
@[simp] theorem State.writeStatus_curNewY (v : Word) : (s.writeStatus v).curNewY = s.curNewY := rfl
@[simp] theorem State.writeStatus_q (v : Word) : (s.writeStatus v).q = s.q := rfl
@[simp] theorem State.writeStatus_qHead (v : Word) : (s.writeStatus v).qHead = s.qHead := rfl
@[simp] theorem State.writeStatus_qCount (v : Word) : (s.writeStatus v).qCount = s.qCount := rfl
@[simp] theorem State.writeStatus_qOvf (v : Word) : (s.writeStatus v).qOvf = (s.qOvf && !v.getLsbD 0) := rfl
@[simp] theorem State.writeStatus_inSig (v : Word) : (s.writeStatus v).inSig = s.inSig := rfl
@[simp] theorem State.writeStatus_drX (v : Word) : (s.writeStatus v).drX = s.drX := rfl
@[simp] theorem State.writeStatus_drY (v : Word) : (s.writeStatus v).drY = s.drY := rfl
@[simp] theorem State.writeStatus_drW (v : Word) : (s.writeStatus v).drW = s.drW := rfl
@[simp] theorem State.writeStatus_drH (v : Word) : (s.writeStatus v).drH = s.drH := rfl
@[simp] theorem State.writeStatus_curPrevX (v : Word) : (s.writeStatus v).curPrevX = s.curPrevX := rfl
@[simp] theorem State.writeStatus_curPrevY (v : Word) : (s.writeStatus v).curPrevY = s.curPrevY := rfl
@[simp] theorem State.writeStatus_offX (v : Word) : (s.writeStatus v).offX = s.offX := rfl
@[simp] theorem State.writeStatus_offY (v : Word) : (s.writeStatus v).offY = s.offY := rfl
@[simp] theorem State.writeStatus_swPending (v : Word) : (s.writeStatus v).swPending = s.swPending := rfl
@[simp] theorem State.writeStatus_swSignal (v : Word) : (s.writeStatus v).swSignal = s.swSignal := rfl
@[simp] theorem State.writeStatus_swTick (v : Word) : (s.writeStatus v).swTick = s.swTick := rfl
@[simp] theorem State.writeStatus_seqPhase (v : Word) : (s.writeStatus v).seqPhase = s.seqPhase := rfl
@[simp] theorem State.writeStatus_termFlag (v : Word) : (s.writeStatus v).termFlag = s.termFlag := rfl
@[simp] theorem State.writeStatus_faultCode (v : Word) : (s.writeStatus v).faultCode = s.faultCode := rfl
@[simp] theorem State.writeStatus_delayStart (v : Word) : (s.writeStatus v).delayStart = s.delayStart := rfl
@[simp] theorem State.writeStatus_ctrl (v : Word) : (s.writeStatus v).ctrl = s.ctrl := rfl
@[simp] theorem State.writeStatus_cyclesPerFrame (v : Word) : (s.writeStatus v).cyclesPerFrame = s.cyclesPerFrame := rfl
@[simp] theorem State.writeStatus_frameDelay (v : Word) : (s.writeStatus v).frameDelay = s.frameDelay := rfl
@[simp] theorem State.writeStatus_fgColor (v : Word) : (s.writeStatus v).fgColor = s.fgColor := rfl
@[simp] theorem State.writeStatus_bgColor (v : Word) : (s.writeStatus v).bgColor = s.bgColor := rfl
@[simp] theorem State.writeStatus_cursorColor (v : Word) : (s.writeStatus v).cursorColor = s.cursorColor := rfl
@[simp] theorem State.writeStatus_trace (v : Word) : (s.writeStatus v).trace = s.trace := rfl
@[simp] theorem State.writeStatus_clock (v : Word) : (s.writeStatus v).clock = s.clock := rfl
@[simp] theorem State.writeStatus_kbd (v : Word) : (s.writeStatus v).kbd = s.kbd := rfl
@[simp] theorem State.writeStatus_mouse (v : Word) : (s.writeStatus v).mouse = s.mouse := rfl
@[simp] theorem State.writeStatus_screen (v : Word) : (s.writeStatus v).screen = s.screen := rfl
@[simp] theorem State.writeStatus_display (v : Word) : (s.writeStatus v).display = s.display := rfl
@[simp] theorem State.writeStatus_schedule (v : Word) : (s.writeStatus v).schedule = s.schedule := rfl

/-! The last reported position. -/

@[simp] theorem State.reportPosition_cfg (x y : Word) : (s.reportPosition x y).cfg = s.cfg := rfl
@[simp] theorem State.reportPosition_host (x y : Word) : (s.reportPosition x y).host = s.host := rfl
@[simp] theorem State.reportPosition_peer (x y : Word) : (s.reportPosition x y).peer = s.peer := rfl
@[simp] theorem State.reportPosition_lastTick (x y : Word) : (s.reportPosition x y).lastTick = s.lastTick := rfl
@[simp] theorem State.reportPosition_tsValid (x y : Word) : (s.reportPosition x y).tsValid = s.tsValid := rfl
@[simp] theorem State.reportPosition_evtCount (x y : Word) : (s.reportPosition x y).evtCount = s.evtCount := rfl
@[simp] theorem State.reportPosition_decPhase (x y : Word) : (s.reportPosition x y).decPhase = s.decPhase := rfl
@[simp] theorem State.reportPosition_decHi (x y : Word) : (s.reportPosition x y).decHi = s.decHi := rfl
@[simp] theorem State.reportPosition_decXy (x y : Word) : (s.reportPosition x y).decXy = s.decXy := rfl
@[simp] theorem State.reportPosition_decErr (x y : Word) : (s.reportPosition x y).decErr = s.decErr := rfl
@[simp] theorem State.reportPosition_modState (x y : Word) : (s.reportPosition x y).modState = s.modState := rfl
@[simp] theorem State.reportPosition_caps (x y : Word) : (s.reportPosition x y).caps = s.caps := rfl
@[simp] theorem State.reportPosition_btn0 (x y : Word) : (s.reportPosition x y).btn0 = s.btn0 := rfl
@[simp] theorem State.reportPosition_btn1 (x y : Word) : (s.reportPosition x y).btn1 = s.btn1 := rfl
@[simp] theorem State.reportPosition_btn2 (x y : Word) : (s.reportPosition x y).btn2 = s.btn2 := rfl
@[simp] theorem State.reportPosition_mposValid (x y : Word) : (s.reportPosition x y).mposValid = true := rfl
@[simp] theorem State.reportPosition_lastMx (x y : Word) : (s.reportPosition x y).lastMx = x.setWidth 16 := rfl
@[simp] theorem State.reportPosition_lastMy (x y : Word) : (s.reportPosition x y).lastMy = y.setWidth 16 := rfl
@[simp] theorem State.reportPosition_curNewX (x y : Word) : (s.reportPosition x y).curNewX = s.curNewX := rfl
@[simp] theorem State.reportPosition_curNewY (x y : Word) : (s.reportPosition x y).curNewY = s.curNewY := rfl
@[simp] theorem State.reportPosition_q (x y : Word) : (s.reportPosition x y).q = s.q := rfl
@[simp] theorem State.reportPosition_qHead (x y : Word) : (s.reportPosition x y).qHead = s.qHead := rfl
@[simp] theorem State.reportPosition_qCount (x y : Word) : (s.reportPosition x y).qCount = s.qCount := rfl
@[simp] theorem State.reportPosition_qOvf (x y : Word) : (s.reportPosition x y).qOvf = s.qOvf := rfl
@[simp] theorem State.reportPosition_inSig (x y : Word) : (s.reportPosition x y).inSig = s.inSig := rfl
@[simp] theorem State.reportPosition_drX (x y : Word) : (s.reportPosition x y).drX = s.drX := rfl
@[simp] theorem State.reportPosition_drY (x y : Word) : (s.reportPosition x y).drY = s.drY := rfl
@[simp] theorem State.reportPosition_drW (x y : Word) : (s.reportPosition x y).drW = s.drW := rfl
@[simp] theorem State.reportPosition_drH (x y : Word) : (s.reportPosition x y).drH = s.drH := rfl
@[simp] theorem State.reportPosition_curPrevX (x y : Word) : (s.reportPosition x y).curPrevX = s.curPrevX := rfl
@[simp] theorem State.reportPosition_curPrevY (x y : Word) : (s.reportPosition x y).curPrevY = s.curPrevY := rfl
@[simp] theorem State.reportPosition_offX (x y : Word) : (s.reportPosition x y).offX = s.offX := rfl
@[simp] theorem State.reportPosition_offY (x y : Word) : (s.reportPosition x y).offY = s.offY := rfl
@[simp] theorem State.reportPosition_swPending (x y : Word) : (s.reportPosition x y).swPending = s.swPending := rfl
@[simp] theorem State.reportPosition_swSignal (x y : Word) : (s.reportPosition x y).swSignal = s.swSignal := rfl
@[simp] theorem State.reportPosition_swTick (x y : Word) : (s.reportPosition x y).swTick = s.swTick := rfl
@[simp] theorem State.reportPosition_seqPhase (x y : Word) : (s.reportPosition x y).seqPhase = s.seqPhase := rfl
@[simp] theorem State.reportPosition_termFlag (x y : Word) : (s.reportPosition x y).termFlag = s.termFlag := rfl
@[simp] theorem State.reportPosition_faultCode (x y : Word) : (s.reportPosition x y).faultCode = s.faultCode := rfl
@[simp] theorem State.reportPosition_delayStart (x y : Word) : (s.reportPosition x y).delayStart = s.delayStart := rfl
@[simp] theorem State.reportPosition_ctrl (x y : Word) : (s.reportPosition x y).ctrl = s.ctrl := rfl
@[simp] theorem State.reportPosition_cyclesPerFrame (x y : Word) : (s.reportPosition x y).cyclesPerFrame = s.cyclesPerFrame := rfl
@[simp] theorem State.reportPosition_frameDelay (x y : Word) : (s.reportPosition x y).frameDelay = s.frameDelay := rfl
@[simp] theorem State.reportPosition_fgColor (x y : Word) : (s.reportPosition x y).fgColor = s.fgColor := rfl
@[simp] theorem State.reportPosition_bgColor (x y : Word) : (s.reportPosition x y).bgColor = s.bgColor := rfl
@[simp] theorem State.reportPosition_cursorColor (x y : Word) : (s.reportPosition x y).cursorColor = s.cursorColor := rfl
@[simp] theorem State.reportPosition_trace (x y : Word) : (s.reportPosition x y).trace = s.trace := rfl
@[simp] theorem State.reportPosition_clock (x y : Word) : (s.reportPosition x y).clock = s.clock := rfl
@[simp] theorem State.reportPosition_kbd (x y : Word) : (s.reportPosition x y).kbd = s.kbd := rfl
@[simp] theorem State.reportPosition_mouse (x y : Word) : (s.reportPosition x y).mouse = s.mouse := rfl
@[simp] theorem State.reportPosition_screen (x y : Word) : (s.reportPosition x y).screen = s.screen := rfl
@[simp] theorem State.reportPosition_display (x y : Word) : (s.reportPosition x y).display = s.display := rfl
@[simp] theorem State.reportPosition_schedule (x y : Word) : (s.reportPosition x y).schedule = s.schedule := rfl

/-! The cursor's new position. -/

@[simp] theorem State.moveCursor_cfg (x y : Word) : (s.moveCursor x y).cfg = s.cfg := rfl
@[simp] theorem State.moveCursor_host (x y : Word) : (s.moveCursor x y).host = s.host := rfl
@[simp] theorem State.moveCursor_peer (x y : Word) : (s.moveCursor x y).peer = s.peer := rfl
@[simp] theorem State.moveCursor_lastTick (x y : Word) : (s.moveCursor x y).lastTick = s.lastTick := rfl
@[simp] theorem State.moveCursor_tsValid (x y : Word) : (s.moveCursor x y).tsValid = s.tsValid := rfl
@[simp] theorem State.moveCursor_evtCount (x y : Word) : (s.moveCursor x y).evtCount = s.evtCount := rfl
@[simp] theorem State.moveCursor_decPhase (x y : Word) : (s.moveCursor x y).decPhase = s.decPhase := rfl
@[simp] theorem State.moveCursor_decHi (x y : Word) : (s.moveCursor x y).decHi = s.decHi := rfl
@[simp] theorem State.moveCursor_decXy (x y : Word) : (s.moveCursor x y).decXy = s.decXy := rfl
@[simp] theorem State.moveCursor_decErr (x y : Word) : (s.moveCursor x y).decErr = s.decErr := rfl
@[simp] theorem State.moveCursor_modState (x y : Word) : (s.moveCursor x y).modState = s.modState := rfl
@[simp] theorem State.moveCursor_caps (x y : Word) : (s.moveCursor x y).caps = s.caps := rfl
@[simp] theorem State.moveCursor_btn0 (x y : Word) : (s.moveCursor x y).btn0 = s.btn0 := rfl
@[simp] theorem State.moveCursor_btn1 (x y : Word) : (s.moveCursor x y).btn1 = s.btn1 := rfl
@[simp] theorem State.moveCursor_btn2 (x y : Word) : (s.moveCursor x y).btn2 = s.btn2 := rfl
@[simp] theorem State.moveCursor_mposValid (x y : Word) : (s.moveCursor x y).mposValid = s.mposValid := rfl
@[simp] theorem State.moveCursor_lastMx (x y : Word) : (s.moveCursor x y).lastMx = s.lastMx := rfl
@[simp] theorem State.moveCursor_lastMy (x y : Word) : (s.moveCursor x y).lastMy = s.lastMy := rfl
@[simp] theorem State.moveCursor_curNewX (x y : Word) : (s.moveCursor x y).curNewX = x.setWidth 16 := rfl
@[simp] theorem State.moveCursor_curNewY (x y : Word) : (s.moveCursor x y).curNewY = y.setWidth 16 := rfl
@[simp] theorem State.moveCursor_q (x y : Word) : (s.moveCursor x y).q = s.q := rfl
@[simp] theorem State.moveCursor_qHead (x y : Word) : (s.moveCursor x y).qHead = s.qHead := rfl
@[simp] theorem State.moveCursor_qCount (x y : Word) : (s.moveCursor x y).qCount = s.qCount := rfl
@[simp] theorem State.moveCursor_qOvf (x y : Word) : (s.moveCursor x y).qOvf = s.qOvf := rfl
@[simp] theorem State.moveCursor_inSig (x y : Word) : (s.moveCursor x y).inSig = s.inSig := rfl
@[simp] theorem State.moveCursor_drX (x y : Word) : (s.moveCursor x y).drX = s.drX := rfl
@[simp] theorem State.moveCursor_drY (x y : Word) : (s.moveCursor x y).drY = s.drY := rfl
@[simp] theorem State.moveCursor_drW (x y : Word) : (s.moveCursor x y).drW = s.drW := rfl
@[simp] theorem State.moveCursor_drH (x y : Word) : (s.moveCursor x y).drH = s.drH := rfl
@[simp] theorem State.moveCursor_curPrevX (x y : Word) : (s.moveCursor x y).curPrevX = s.curPrevX := rfl
@[simp] theorem State.moveCursor_curPrevY (x y : Word) : (s.moveCursor x y).curPrevY = s.curPrevY := rfl
@[simp] theorem State.moveCursor_offX (x y : Word) : (s.moveCursor x y).offX = s.offX := rfl
@[simp] theorem State.moveCursor_offY (x y : Word) : (s.moveCursor x y).offY = s.offY := rfl
@[simp] theorem State.moveCursor_swPending (x y : Word) : (s.moveCursor x y).swPending = s.swPending := rfl
@[simp] theorem State.moveCursor_swSignal (x y : Word) : (s.moveCursor x y).swSignal = s.swSignal := rfl
@[simp] theorem State.moveCursor_swTick (x y : Word) : (s.moveCursor x y).swTick = s.swTick := rfl
@[simp] theorem State.moveCursor_seqPhase (x y : Word) : (s.moveCursor x y).seqPhase = s.seqPhase := rfl
@[simp] theorem State.moveCursor_termFlag (x y : Word) : (s.moveCursor x y).termFlag = s.termFlag := rfl
@[simp] theorem State.moveCursor_faultCode (x y : Word) : (s.moveCursor x y).faultCode = s.faultCode := rfl
@[simp] theorem State.moveCursor_delayStart (x y : Word) : (s.moveCursor x y).delayStart = s.delayStart := rfl
@[simp] theorem State.moveCursor_ctrl (x y : Word) : (s.moveCursor x y).ctrl = s.ctrl := rfl
@[simp] theorem State.moveCursor_cyclesPerFrame (x y : Word) : (s.moveCursor x y).cyclesPerFrame = s.cyclesPerFrame := rfl
@[simp] theorem State.moveCursor_frameDelay (x y : Word) : (s.moveCursor x y).frameDelay = s.frameDelay := rfl
@[simp] theorem State.moveCursor_fgColor (x y : Word) : (s.moveCursor x y).fgColor = s.fgColor := rfl
@[simp] theorem State.moveCursor_bgColor (x y : Word) : (s.moveCursor x y).bgColor = s.bgColor := rfl
@[simp] theorem State.moveCursor_cursorColor (x y : Word) : (s.moveCursor x y).cursorColor = s.cursorColor := rfl
@[simp] theorem State.moveCursor_trace (x y : Word) : (s.moveCursor x y).trace = s.trace := rfl
@[simp] theorem State.moveCursor_clock (x y : Word) : (s.moveCursor x y).clock = s.clock := rfl
@[simp] theorem State.moveCursor_kbd (x y : Word) : (s.moveCursor x y).kbd = s.kbd := rfl
@[simp] theorem State.moveCursor_mouse (x y : Word) : (s.moveCursor x y).mouse = s.mouse := rfl
@[simp] theorem State.moveCursor_screen (x y : Word) : (s.moveCursor x y).screen = s.screen := rfl
@[simp] theorem State.moveCursor_display (x y : Word) : (s.moveCursor x y).display = s.display := rfl
@[simp] theorem State.moveCursor_schedule (x y : Word) : (s.moveCursor x y).schedule = s.schedule := rfl

/-! The button registers after a sample of the mask. -/

@[simp] theorem State.sampleButtons_cfg (mask : Word) : (s.sampleButtons mask).cfg = s.cfg := rfl
@[simp] theorem State.sampleButtons_host (mask : Word) : (s.sampleButtons mask).host = s.host := rfl
@[simp] theorem State.sampleButtons_peer (mask : Word) : (s.sampleButtons mask).peer = s.peer := rfl
@[simp] theorem State.sampleButtons_lastTick (mask : Word) : (s.sampleButtons mask).lastTick = s.lastTick := rfl
@[simp] theorem State.sampleButtons_tsValid (mask : Word) : (s.sampleButtons mask).tsValid = s.tsValid := rfl
@[simp] theorem State.sampleButtons_evtCount (mask : Word) : (s.sampleButtons mask).evtCount = s.evtCount := rfl
@[simp] theorem State.sampleButtons_decPhase (mask : Word) : (s.sampleButtons mask).decPhase = s.decPhase := rfl
@[simp] theorem State.sampleButtons_decHi (mask : Word) : (s.sampleButtons mask).decHi = s.decHi := rfl
@[simp] theorem State.sampleButtons_decXy (mask : Word) : (s.sampleButtons mask).decXy = s.decXy := rfl
@[simp] theorem State.sampleButtons_decErr (mask : Word) : (s.sampleButtons mask).decErr = s.decErr := rfl
@[simp] theorem State.sampleButtons_modState (mask : Word) : (s.sampleButtons mask).modState = s.modState := rfl
@[simp] theorem State.sampleButtons_caps (mask : Word) : (s.sampleButtons mask).caps = s.caps := rfl
@[simp] theorem State.sampleButtons_btn0 (mask : Word) : (s.sampleButtons mask).btn0 = (s.btn0.sample (mask.getLsbD 0) (buttonCode s.cfg 0 s.modState)).1 := rfl
@[simp] theorem State.sampleButtons_btn1 (mask : Word) : (s.sampleButtons mask).btn1 = (s.btn1.sample (mask.getLsbD 1) (buttonCode s.cfg 1 s.modState)).1 := rfl
@[simp] theorem State.sampleButtons_btn2 (mask : Word) : (s.sampleButtons mask).btn2 = (s.btn2.sample (mask.getLsbD 2) (buttonCode s.cfg 2 s.modState)).1 := rfl
@[simp] theorem State.sampleButtons_mposValid (mask : Word) : (s.sampleButtons mask).mposValid = s.mposValid := rfl
@[simp] theorem State.sampleButtons_lastMx (mask : Word) : (s.sampleButtons mask).lastMx = s.lastMx := rfl
@[simp] theorem State.sampleButtons_lastMy (mask : Word) : (s.sampleButtons mask).lastMy = s.lastMy := rfl
@[simp] theorem State.sampleButtons_curNewX (mask : Word) : (s.sampleButtons mask).curNewX = s.curNewX := rfl
@[simp] theorem State.sampleButtons_curNewY (mask : Word) : (s.sampleButtons mask).curNewY = s.curNewY := rfl
@[simp] theorem State.sampleButtons_q (mask : Word) : (s.sampleButtons mask).q = s.q := rfl
@[simp] theorem State.sampleButtons_qHead (mask : Word) : (s.sampleButtons mask).qHead = s.qHead := rfl
@[simp] theorem State.sampleButtons_qCount (mask : Word) : (s.sampleButtons mask).qCount = s.qCount := rfl
@[simp] theorem State.sampleButtons_qOvf (mask : Word) : (s.sampleButtons mask).qOvf = s.qOvf := rfl
@[simp] theorem State.sampleButtons_inSig (mask : Word) : (s.sampleButtons mask).inSig = s.inSig := rfl
@[simp] theorem State.sampleButtons_drX (mask : Word) : (s.sampleButtons mask).drX = s.drX := rfl
@[simp] theorem State.sampleButtons_drY (mask : Word) : (s.sampleButtons mask).drY = s.drY := rfl
@[simp] theorem State.sampleButtons_drW (mask : Word) : (s.sampleButtons mask).drW = s.drW := rfl
@[simp] theorem State.sampleButtons_drH (mask : Word) : (s.sampleButtons mask).drH = s.drH := rfl
@[simp] theorem State.sampleButtons_curPrevX (mask : Word) : (s.sampleButtons mask).curPrevX = s.curPrevX := rfl
@[simp] theorem State.sampleButtons_curPrevY (mask : Word) : (s.sampleButtons mask).curPrevY = s.curPrevY := rfl
@[simp] theorem State.sampleButtons_offX (mask : Word) : (s.sampleButtons mask).offX = s.offX := rfl
@[simp] theorem State.sampleButtons_offY (mask : Word) : (s.sampleButtons mask).offY = s.offY := rfl
@[simp] theorem State.sampleButtons_swPending (mask : Word) : (s.sampleButtons mask).swPending = s.swPending := rfl
@[simp] theorem State.sampleButtons_swSignal (mask : Word) : (s.sampleButtons mask).swSignal = s.swSignal := rfl
@[simp] theorem State.sampleButtons_swTick (mask : Word) : (s.sampleButtons mask).swTick = s.swTick := rfl
@[simp] theorem State.sampleButtons_seqPhase (mask : Word) : (s.sampleButtons mask).seqPhase = s.seqPhase := rfl
@[simp] theorem State.sampleButtons_termFlag (mask : Word) : (s.sampleButtons mask).termFlag = s.termFlag := rfl
@[simp] theorem State.sampleButtons_faultCode (mask : Word) : (s.sampleButtons mask).faultCode = s.faultCode := rfl
@[simp] theorem State.sampleButtons_delayStart (mask : Word) : (s.sampleButtons mask).delayStart = s.delayStart := rfl
@[simp] theorem State.sampleButtons_ctrl (mask : Word) : (s.sampleButtons mask).ctrl = s.ctrl := rfl
@[simp] theorem State.sampleButtons_cyclesPerFrame (mask : Word) : (s.sampleButtons mask).cyclesPerFrame = s.cyclesPerFrame := rfl
@[simp] theorem State.sampleButtons_frameDelay (mask : Word) : (s.sampleButtons mask).frameDelay = s.frameDelay := rfl
@[simp] theorem State.sampleButtons_fgColor (mask : Word) : (s.sampleButtons mask).fgColor = s.fgColor := rfl
@[simp] theorem State.sampleButtons_bgColor (mask : Word) : (s.sampleButtons mask).bgColor = s.bgColor := rfl
@[simp] theorem State.sampleButtons_cursorColor (mask : Word) : (s.sampleButtons mask).cursorColor = s.cursorColor := rfl
@[simp] theorem State.sampleButtons_trace (mask : Word) : (s.sampleButtons mask).trace = s.trace := rfl
@[simp] theorem State.sampleButtons_clock (mask : Word) : (s.sampleButtons mask).clock = s.clock := rfl
@[simp] theorem State.sampleButtons_kbd (mask : Word) : (s.sampleButtons mask).kbd = s.kbd := rfl
@[simp] theorem State.sampleButtons_mouse (mask : Word) : (s.sampleButtons mask).mouse = s.mouse := rfl
@[simp] theorem State.sampleButtons_screen (mask : Word) : (s.sampleButtons mask).screen = s.screen := rfl
@[simp] theorem State.sampleButtons_display (mask : Word) : (s.sampleButtons mask).display = s.display := rfl
@[simp] theorem State.sampleButtons_schedule (mask : Word) : (s.sampleButtons mask).schedule = s.schedule := rfl

/-! The tracked rectangle written. -/

@[simp] theorem State.setDirty_cfg (r : Rect) : (s.setDirty r).cfg = s.cfg := rfl
@[simp] theorem State.setDirty_host (r : Rect) : (s.setDirty r).host = s.host := rfl
@[simp] theorem State.setDirty_peer (r : Rect) : (s.setDirty r).peer = s.peer := rfl
@[simp] theorem State.setDirty_lastTick (r : Rect) : (s.setDirty r).lastTick = s.lastTick := rfl
@[simp] theorem State.setDirty_tsValid (r : Rect) : (s.setDirty r).tsValid = s.tsValid := rfl
@[simp] theorem State.setDirty_evtCount (r : Rect) : (s.setDirty r).evtCount = s.evtCount := rfl
@[simp] theorem State.setDirty_decPhase (r : Rect) : (s.setDirty r).decPhase = s.decPhase := rfl
@[simp] theorem State.setDirty_decHi (r : Rect) : (s.setDirty r).decHi = s.decHi := rfl
@[simp] theorem State.setDirty_decXy (r : Rect) : (s.setDirty r).decXy = s.decXy := rfl
@[simp] theorem State.setDirty_decErr (r : Rect) : (s.setDirty r).decErr = s.decErr := rfl
@[simp] theorem State.setDirty_modState (r : Rect) : (s.setDirty r).modState = s.modState := rfl
@[simp] theorem State.setDirty_caps (r : Rect) : (s.setDirty r).caps = s.caps := rfl
@[simp] theorem State.setDirty_btn0 (r : Rect) : (s.setDirty r).btn0 = s.btn0 := rfl
@[simp] theorem State.setDirty_btn1 (r : Rect) : (s.setDirty r).btn1 = s.btn1 := rfl
@[simp] theorem State.setDirty_btn2 (r : Rect) : (s.setDirty r).btn2 = s.btn2 := rfl
@[simp] theorem State.setDirty_mposValid (r : Rect) : (s.setDirty r).mposValid = s.mposValid := rfl
@[simp] theorem State.setDirty_lastMx (r : Rect) : (s.setDirty r).lastMx = s.lastMx := rfl
@[simp] theorem State.setDirty_lastMy (r : Rect) : (s.setDirty r).lastMy = s.lastMy := rfl
@[simp] theorem State.setDirty_curNewX (r : Rect) : (s.setDirty r).curNewX = s.curNewX := rfl
@[simp] theorem State.setDirty_curNewY (r : Rect) : (s.setDirty r).curNewY = s.curNewY := rfl
@[simp] theorem State.setDirty_q (r : Rect) : (s.setDirty r).q = s.q := rfl
@[simp] theorem State.setDirty_qHead (r : Rect) : (s.setDirty r).qHead = s.qHead := rfl
@[simp] theorem State.setDirty_qCount (r : Rect) : (s.setDirty r).qCount = s.qCount := rfl
@[simp] theorem State.setDirty_qOvf (r : Rect) : (s.setDirty r).qOvf = s.qOvf := rfl
@[simp] theorem State.setDirty_inSig (r : Rect) : (s.setDirty r).inSig = s.inSig := rfl
@[simp] theorem State.setDirty_drX (r : Rect) : (s.setDirty r).drX = BitVec.ofNat 16 r.x := rfl
@[simp] theorem State.setDirty_drY (r : Rect) : (s.setDirty r).drY = BitVec.ofNat 16 r.y := rfl
@[simp] theorem State.setDirty_drW (r : Rect) : (s.setDirty r).drW = BitVec.ofNat 16 r.w := rfl
@[simp] theorem State.setDirty_drH (r : Rect) : (s.setDirty r).drH = BitVec.ofNat 16 r.h := rfl
@[simp] theorem State.setDirty_curPrevX (r : Rect) : (s.setDirty r).curPrevX = s.curPrevX := rfl
@[simp] theorem State.setDirty_curPrevY (r : Rect) : (s.setDirty r).curPrevY = s.curPrevY := rfl
@[simp] theorem State.setDirty_offX (r : Rect) : (s.setDirty r).offX = s.offX := rfl
@[simp] theorem State.setDirty_offY (r : Rect) : (s.setDirty r).offY = s.offY := rfl
@[simp] theorem State.setDirty_swPending (r : Rect) : (s.setDirty r).swPending = s.swPending := rfl
@[simp] theorem State.setDirty_swSignal (r : Rect) : (s.setDirty r).swSignal = s.swSignal := rfl
@[simp] theorem State.setDirty_swTick (r : Rect) : (s.setDirty r).swTick = s.swTick := rfl
@[simp] theorem State.setDirty_seqPhase (r : Rect) : (s.setDirty r).seqPhase = s.seqPhase := rfl
@[simp] theorem State.setDirty_termFlag (r : Rect) : (s.setDirty r).termFlag = s.termFlag := rfl
@[simp] theorem State.setDirty_faultCode (r : Rect) : (s.setDirty r).faultCode = s.faultCode := rfl
@[simp] theorem State.setDirty_delayStart (r : Rect) : (s.setDirty r).delayStart = s.delayStart := rfl
@[simp] theorem State.setDirty_ctrl (r : Rect) : (s.setDirty r).ctrl = s.ctrl := rfl
@[simp] theorem State.setDirty_cyclesPerFrame (r : Rect) : (s.setDirty r).cyclesPerFrame = s.cyclesPerFrame := rfl
@[simp] theorem State.setDirty_frameDelay (r : Rect) : (s.setDirty r).frameDelay = s.frameDelay := rfl
@[simp] theorem State.setDirty_fgColor (r : Rect) : (s.setDirty r).fgColor = s.fgColor := rfl
@[simp] theorem State.setDirty_bgColor (r : Rect) : (s.setDirty r).bgColor = s.bgColor := rfl
@[simp] theorem State.setDirty_cursorColor (r : Rect) : (s.setDirty r).cursorColor = s.cursorColor := rfl
@[simp] theorem State.setDirty_trace (r : Rect) : (s.setDirty r).trace = s.trace := rfl
@[simp] theorem State.setDirty_clock (r : Rect) : (s.setDirty r).clock = s.clock := rfl
@[simp] theorem State.setDirty_kbd (r : Rect) : (s.setDirty r).kbd = s.kbd := rfl
@[simp] theorem State.setDirty_mouse (r : Rect) : (s.setDirty r).mouse = s.mouse := rfl
@[simp] theorem State.setDirty_screen (r : Rect) : (s.setDirty r).screen = s.screen := rfl
@[simp] theorem State.setDirty_display (r : Rect) : (s.setDirty r).display = s.display := rfl
@[simp] theorem State.setDirty_schedule (r : Rect) : (s.setDirty r).schedule = s.schedule := rfl

/-! The tracked rectangle cleared. -/

@[simp] theorem State.clearDirty_cfg : (s.clearDirty).cfg = s.cfg := rfl
@[simp] theorem State.clearDirty_host : (s.clearDirty).host = s.host := rfl
@[simp] theorem State.clearDirty_peer : (s.clearDirty).peer = s.peer := rfl
@[simp] theorem State.clearDirty_lastTick : (s.clearDirty).lastTick = s.lastTick := rfl
@[simp] theorem State.clearDirty_tsValid : (s.clearDirty).tsValid = s.tsValid := rfl
@[simp] theorem State.clearDirty_evtCount : (s.clearDirty).evtCount = s.evtCount := rfl
@[simp] theorem State.clearDirty_decPhase : (s.clearDirty).decPhase = s.decPhase := rfl
@[simp] theorem State.clearDirty_decHi : (s.clearDirty).decHi = s.decHi := rfl
@[simp] theorem State.clearDirty_decXy : (s.clearDirty).decXy = s.decXy := rfl
@[simp] theorem State.clearDirty_decErr : (s.clearDirty).decErr = s.decErr := rfl
@[simp] theorem State.clearDirty_modState : (s.clearDirty).modState = s.modState := rfl
@[simp] theorem State.clearDirty_caps : (s.clearDirty).caps = s.caps := rfl
@[simp] theorem State.clearDirty_btn0 : (s.clearDirty).btn0 = s.btn0 := rfl
@[simp] theorem State.clearDirty_btn1 : (s.clearDirty).btn1 = s.btn1 := rfl
@[simp] theorem State.clearDirty_btn2 : (s.clearDirty).btn2 = s.btn2 := rfl
@[simp] theorem State.clearDirty_mposValid : (s.clearDirty).mposValid = s.mposValid := rfl
@[simp] theorem State.clearDirty_lastMx : (s.clearDirty).lastMx = s.lastMx := rfl
@[simp] theorem State.clearDirty_lastMy : (s.clearDirty).lastMy = s.lastMy := rfl
@[simp] theorem State.clearDirty_curNewX : (s.clearDirty).curNewX = s.curNewX := rfl
@[simp] theorem State.clearDirty_curNewY : (s.clearDirty).curNewY = s.curNewY := rfl
@[simp] theorem State.clearDirty_q : (s.clearDirty).q = s.q := rfl
@[simp] theorem State.clearDirty_qHead : (s.clearDirty).qHead = s.qHead := rfl
@[simp] theorem State.clearDirty_qCount : (s.clearDirty).qCount = s.qCount := rfl
@[simp] theorem State.clearDirty_qOvf : (s.clearDirty).qOvf = s.qOvf := rfl
@[simp] theorem State.clearDirty_inSig : (s.clearDirty).inSig = s.inSig := rfl
@[simp] theorem State.clearDirty_drX : (s.clearDirty).drX = 0 := rfl
@[simp] theorem State.clearDirty_drY : (s.clearDirty).drY = 0 := rfl
@[simp] theorem State.clearDirty_drW : (s.clearDirty).drW = 0 := rfl
@[simp] theorem State.clearDirty_drH : (s.clearDirty).drH = 0 := rfl
@[simp] theorem State.clearDirty_curPrevX : (s.clearDirty).curPrevX = s.curPrevX := rfl
@[simp] theorem State.clearDirty_curPrevY : (s.clearDirty).curPrevY = s.curPrevY := rfl
@[simp] theorem State.clearDirty_offX : (s.clearDirty).offX = s.offX := rfl
@[simp] theorem State.clearDirty_offY : (s.clearDirty).offY = s.offY := rfl
@[simp] theorem State.clearDirty_swPending : (s.clearDirty).swPending = s.swPending := rfl
@[simp] theorem State.clearDirty_swSignal : (s.clearDirty).swSignal = s.swSignal := rfl
@[simp] theorem State.clearDirty_swTick : (s.clearDirty).swTick = s.swTick := rfl
@[simp] theorem State.clearDirty_seqPhase : (s.clearDirty).seqPhase = s.seqPhase := rfl
@[simp] theorem State.clearDirty_termFlag : (s.clearDirty).termFlag = s.termFlag := rfl
@[simp] theorem State.clearDirty_faultCode : (s.clearDirty).faultCode = s.faultCode := rfl
@[simp] theorem State.clearDirty_delayStart : (s.clearDirty).delayStart = s.delayStart := rfl
@[simp] theorem State.clearDirty_ctrl : (s.clearDirty).ctrl = s.ctrl := rfl
@[simp] theorem State.clearDirty_cyclesPerFrame : (s.clearDirty).cyclesPerFrame = s.cyclesPerFrame := rfl
@[simp] theorem State.clearDirty_frameDelay : (s.clearDirty).frameDelay = s.frameDelay := rfl
@[simp] theorem State.clearDirty_fgColor : (s.clearDirty).fgColor = s.fgColor := rfl
@[simp] theorem State.clearDirty_bgColor : (s.clearDirty).bgColor = s.bgColor := rfl
@[simp] theorem State.clearDirty_cursorColor : (s.clearDirty).cursorColor = s.cursorColor := rfl
@[simp] theorem State.clearDirty_trace : (s.clearDirty).trace = s.trace := rfl
@[simp] theorem State.clearDirty_clock : (s.clearDirty).clock = s.clock := rfl
@[simp] theorem State.clearDirty_kbd : (s.clearDirty).kbd = s.kbd := rfl
@[simp] theorem State.clearDirty_mouse : (s.clearDirty).mouse = s.mouse := rfl
@[simp] theorem State.clearDirty_screen : (s.clearDirty).screen = s.screen := rfl
@[simp] theorem State.clearDirty_display : (s.clearDirty).display = s.display := rfl
@[simp] theorem State.clearDirty_schedule : (s.clearDirty).schedule = s.schedule := rfl

/-! The scheduled wake cleared. -/

@[simp] theorem State.clearWake_cfg : (s.clearWake).cfg = s.cfg := rfl
@[simp] theorem State.clearWake_host : (s.clearWake).host = s.host := rfl
@[simp] theorem State.clearWake_peer : (s.clearWake).peer = s.peer := rfl
@[simp] theorem State.clearWake_lastTick : (s.clearWake).lastTick = s.lastTick := rfl
@[simp] theorem State.clearWake_tsValid : (s.clearWake).tsValid = s.tsValid := rfl
@[simp] theorem State.clearWake_evtCount : (s.clearWake).evtCount = s.evtCount := rfl
@[simp] theorem State.clearWake_decPhase : (s.clearWake).decPhase = s.decPhase := rfl
@[simp] theorem State.clearWake_decHi : (s.clearWake).decHi = s.decHi := rfl
@[simp] theorem State.clearWake_decXy : (s.clearWake).decXy = s.decXy := rfl
@[simp] theorem State.clearWake_decErr : (s.clearWake).decErr = s.decErr := rfl
@[simp] theorem State.clearWake_modState : (s.clearWake).modState = s.modState := rfl
@[simp] theorem State.clearWake_caps : (s.clearWake).caps = s.caps := rfl
@[simp] theorem State.clearWake_btn0 : (s.clearWake).btn0 = s.btn0 := rfl
@[simp] theorem State.clearWake_btn1 : (s.clearWake).btn1 = s.btn1 := rfl
@[simp] theorem State.clearWake_btn2 : (s.clearWake).btn2 = s.btn2 := rfl
@[simp] theorem State.clearWake_mposValid : (s.clearWake).mposValid = s.mposValid := rfl
@[simp] theorem State.clearWake_lastMx : (s.clearWake).lastMx = s.lastMx := rfl
@[simp] theorem State.clearWake_lastMy : (s.clearWake).lastMy = s.lastMy := rfl
@[simp] theorem State.clearWake_curNewX : (s.clearWake).curNewX = s.curNewX := rfl
@[simp] theorem State.clearWake_curNewY : (s.clearWake).curNewY = s.curNewY := rfl
@[simp] theorem State.clearWake_q : (s.clearWake).q = s.q := rfl
@[simp] theorem State.clearWake_qHead : (s.clearWake).qHead = s.qHead := rfl
@[simp] theorem State.clearWake_qCount : (s.clearWake).qCount = s.qCount := rfl
@[simp] theorem State.clearWake_qOvf : (s.clearWake).qOvf = s.qOvf := rfl
@[simp] theorem State.clearWake_inSig : (s.clearWake).inSig = s.inSig := rfl
@[simp] theorem State.clearWake_drX : (s.clearWake).drX = s.drX := rfl
@[simp] theorem State.clearWake_drY : (s.clearWake).drY = s.drY := rfl
@[simp] theorem State.clearWake_drW : (s.clearWake).drW = s.drW := rfl
@[simp] theorem State.clearWake_drH : (s.clearWake).drH = s.drH := rfl
@[simp] theorem State.clearWake_curPrevX : (s.clearWake).curPrevX = s.curPrevX := rfl
@[simp] theorem State.clearWake_curPrevY : (s.clearWake).curPrevY = s.curPrevY := rfl
@[simp] theorem State.clearWake_offX : (s.clearWake).offX = s.offX := rfl
@[simp] theorem State.clearWake_offY : (s.clearWake).offY = s.offY := rfl
@[simp] theorem State.clearWake_swPending : (s.clearWake).swPending = false := rfl
@[simp] theorem State.clearWake_swSignal : (s.clearWake).swSignal = 0 := rfl
@[simp] theorem State.clearWake_swTick : (s.clearWake).swTick = 0 := rfl
@[simp] theorem State.clearWake_seqPhase : (s.clearWake).seqPhase = s.seqPhase := rfl
@[simp] theorem State.clearWake_termFlag : (s.clearWake).termFlag = s.termFlag := rfl
@[simp] theorem State.clearWake_faultCode : (s.clearWake).faultCode = s.faultCode := rfl
@[simp] theorem State.clearWake_delayStart : (s.clearWake).delayStart = s.delayStart := rfl
@[simp] theorem State.clearWake_ctrl : (s.clearWake).ctrl = s.ctrl := rfl
@[simp] theorem State.clearWake_cyclesPerFrame : (s.clearWake).cyclesPerFrame = s.cyclesPerFrame := rfl
@[simp] theorem State.clearWake_frameDelay : (s.clearWake).frameDelay = s.frameDelay := rfl
@[simp] theorem State.clearWake_fgColor : (s.clearWake).fgColor = s.fgColor := rfl
@[simp] theorem State.clearWake_bgColor : (s.clearWake).bgColor = s.bgColor := rfl
@[simp] theorem State.clearWake_cursorColor : (s.clearWake).cursorColor = s.cursorColor := rfl
@[simp] theorem State.clearWake_trace : (s.clearWake).trace = s.trace := rfl
@[simp] theorem State.clearWake_clock : (s.clearWake).clock = s.clock := rfl
@[simp] theorem State.clearWake_kbd : (s.clearWake).kbd = s.kbd := rfl
@[simp] theorem State.clearWake_mouse : (s.clearWake).mouse = s.mouse := rfl
@[simp] theorem State.clearWake_screen : (s.clearWake).screen = s.screen := rfl
@[simp] theorem State.clearWake_display : (s.clearWake).display = s.display := rfl
@[simp] theorem State.clearWake_schedule : (s.clearWake).schedule = s.schedule := rfl

/-! A port's registers written: every other field is untouched. -/

@[simp] theorem State.setPort_cfg (n : PortName) (f : Port → Port) : (s.setPort n f).cfg = s.cfg := by cases n <;> rfl
@[simp] theorem State.setPort_lastTick (n : PortName) (f : Port → Port) : (s.setPort n f).lastTick = s.lastTick := by cases n <;> rfl
@[simp] theorem State.setPort_tsValid (n : PortName) (f : Port → Port) : (s.setPort n f).tsValid = s.tsValid := by cases n <;> rfl
@[simp] theorem State.setPort_evtCount (n : PortName) (f : Port → Port) : (s.setPort n f).evtCount = s.evtCount := by cases n <;> rfl
@[simp] theorem State.setPort_decPhase (n : PortName) (f : Port → Port) : (s.setPort n f).decPhase = s.decPhase := by cases n <;> rfl
@[simp] theorem State.setPort_decHi (n : PortName) (f : Port → Port) : (s.setPort n f).decHi = s.decHi := by cases n <;> rfl
@[simp] theorem State.setPort_decXy (n : PortName) (f : Port → Port) : (s.setPort n f).decXy = s.decXy := by cases n <;> rfl
@[simp] theorem State.setPort_decErr (n : PortName) (f : Port → Port) : (s.setPort n f).decErr = s.decErr := by cases n <;> rfl
@[simp] theorem State.setPort_modState (n : PortName) (f : Port → Port) : (s.setPort n f).modState = s.modState := by cases n <;> rfl
@[simp] theorem State.setPort_caps (n : PortName) (f : Port → Port) : (s.setPort n f).caps = s.caps := by cases n <;> rfl
@[simp] theorem State.setPort_btn0 (n : PortName) (f : Port → Port) : (s.setPort n f).btn0 = s.btn0 := by cases n <;> rfl
@[simp] theorem State.setPort_btn1 (n : PortName) (f : Port → Port) : (s.setPort n f).btn1 = s.btn1 := by cases n <;> rfl
@[simp] theorem State.setPort_btn2 (n : PortName) (f : Port → Port) : (s.setPort n f).btn2 = s.btn2 := by cases n <;> rfl
@[simp] theorem State.setPort_mposValid (n : PortName) (f : Port → Port) : (s.setPort n f).mposValid = s.mposValid := by cases n <;> rfl
@[simp] theorem State.setPort_lastMx (n : PortName) (f : Port → Port) : (s.setPort n f).lastMx = s.lastMx := by cases n <;> rfl
@[simp] theorem State.setPort_lastMy (n : PortName) (f : Port → Port) : (s.setPort n f).lastMy = s.lastMy := by cases n <;> rfl
@[simp] theorem State.setPort_curNewX (n : PortName) (f : Port → Port) : (s.setPort n f).curNewX = s.curNewX := by cases n <;> rfl
@[simp] theorem State.setPort_curNewY (n : PortName) (f : Port → Port) : (s.setPort n f).curNewY = s.curNewY := by cases n <;> rfl
@[simp] theorem State.setPort_q (n : PortName) (f : Port → Port) : (s.setPort n f).q = s.q := by cases n <;> rfl
@[simp] theorem State.setPort_qHead (n : PortName) (f : Port → Port) : (s.setPort n f).qHead = s.qHead := by cases n <;> rfl
@[simp] theorem State.setPort_qCount (n : PortName) (f : Port → Port) : (s.setPort n f).qCount = s.qCount := by cases n <;> rfl
@[simp] theorem State.setPort_qOvf (n : PortName) (f : Port → Port) : (s.setPort n f).qOvf = s.qOvf := by cases n <;> rfl
@[simp] theorem State.setPort_inSig (n : PortName) (f : Port → Port) : (s.setPort n f).inSig = s.inSig := by cases n <;> rfl
@[simp] theorem State.setPort_drX (n : PortName) (f : Port → Port) : (s.setPort n f).drX = s.drX := by cases n <;> rfl
@[simp] theorem State.setPort_drY (n : PortName) (f : Port → Port) : (s.setPort n f).drY = s.drY := by cases n <;> rfl
@[simp] theorem State.setPort_drW (n : PortName) (f : Port → Port) : (s.setPort n f).drW = s.drW := by cases n <;> rfl
@[simp] theorem State.setPort_drH (n : PortName) (f : Port → Port) : (s.setPort n f).drH = s.drH := by cases n <;> rfl
@[simp] theorem State.setPort_curPrevX (n : PortName) (f : Port → Port) : (s.setPort n f).curPrevX = s.curPrevX := by cases n <;> rfl
@[simp] theorem State.setPort_curPrevY (n : PortName) (f : Port → Port) : (s.setPort n f).curPrevY = s.curPrevY := by cases n <;> rfl
@[simp] theorem State.setPort_offX (n : PortName) (f : Port → Port) : (s.setPort n f).offX = s.offX := by cases n <;> rfl
@[simp] theorem State.setPort_offY (n : PortName) (f : Port → Port) : (s.setPort n f).offY = s.offY := by cases n <;> rfl
@[simp] theorem State.setPort_swPending (n : PortName) (f : Port → Port) : (s.setPort n f).swPending = s.swPending := by cases n <;> rfl
@[simp] theorem State.setPort_swSignal (n : PortName) (f : Port → Port) : (s.setPort n f).swSignal = s.swSignal := by cases n <;> rfl
@[simp] theorem State.setPort_swTick (n : PortName) (f : Port → Port) : (s.setPort n f).swTick = s.swTick := by cases n <;> rfl
@[simp] theorem State.setPort_seqPhase (n : PortName) (f : Port → Port) : (s.setPort n f).seqPhase = s.seqPhase := by cases n <;> rfl
@[simp] theorem State.setPort_termFlag (n : PortName) (f : Port → Port) : (s.setPort n f).termFlag = s.termFlag := by cases n <;> rfl
@[simp] theorem State.setPort_faultCode (n : PortName) (f : Port → Port) : (s.setPort n f).faultCode = s.faultCode := by cases n <;> rfl
@[simp] theorem State.setPort_delayStart (n : PortName) (f : Port → Port) : (s.setPort n f).delayStart = s.delayStart := by cases n <;> rfl
@[simp] theorem State.setPort_ctrl (n : PortName) (f : Port → Port) : (s.setPort n f).ctrl = s.ctrl := by cases n <;> rfl
@[simp] theorem State.setPort_cyclesPerFrame (n : PortName) (f : Port → Port) : (s.setPort n f).cyclesPerFrame = s.cyclesPerFrame := by cases n <;> rfl
@[simp] theorem State.setPort_frameDelay (n : PortName) (f : Port → Port) : (s.setPort n f).frameDelay = s.frameDelay := by cases n <;> rfl
@[simp] theorem State.setPort_fgColor (n : PortName) (f : Port → Port) : (s.setPort n f).fgColor = s.fgColor := by cases n <;> rfl
@[simp] theorem State.setPort_bgColor (n : PortName) (f : Port → Port) : (s.setPort n f).bgColor = s.bgColor := by cases n <;> rfl
@[simp] theorem State.setPort_cursorColor (n : PortName) (f : Port → Port) : (s.setPort n f).cursorColor = s.cursorColor := by cases n <;> rfl
@[simp] theorem State.setPort_trace (n : PortName) (f : Port → Port) : (s.setPort n f).trace = s.trace := by cases n <;> rfl
@[simp] theorem State.setPort_clock (n : PortName) (f : Port → Port) : (s.setPort n f).clock = s.clock := by cases n <;> rfl
@[simp] theorem State.setPort_kbd (n : PortName) (f : Port → Port) : (s.setPort n f).kbd = s.kbd := by cases n <;> rfl
@[simp] theorem State.setPort_mouse (n : PortName) (f : Port → Port) : (s.setPort n f).mouse = s.mouse := by cases n <;> rfl
@[simp] theorem State.setPort_screen (n : PortName) (f : Port → Port) : (s.setPort n f).screen = s.screen := by cases n <;> rfl
@[simp] theorem State.setPort_display (n : PortName) (f : Port → Port) : (s.setPort n f).display = s.display := by cases n <;> rfl
@[simp] theorem State.setPort_schedule (n : PortName) (f : Port → Port) : (s.setPort n f).schedule = s.schedule := by cases n <;> rfl

@[simp] theorem State.setPort_same (n : PortName) (f : Port → Port) : (s.setPort n f).port n = f (s.port n) := by
  cases n <;> rfl

theorem State.setPort_other {m n : PortName} (f : Port → Port) (h : m ≠ n) :
    (s.setPort n f).port m = s.port m := by
  cases m <;> cases n <;> first | rfl | exact absurd rfl h

@[simp] theorem State.setPort_livePort (n : PortName) (f : Port → Port) :
    (s.setPort n f).livePort = s.livePort := by
  simp [State.livePort]

/-! RES0 written. -/

@[simp] theorem State.setRes0_cfg (v : Word) : (s.setRes0 v).cfg = s.cfg := State.setPort_cfg ..
@[simp] theorem State.setRes0_lastTick (v : Word) : (s.setRes0 v).lastTick = s.lastTick := State.setPort_lastTick ..
@[simp] theorem State.setRes0_tsValid (v : Word) : (s.setRes0 v).tsValid = s.tsValid := State.setPort_tsValid ..
@[simp] theorem State.setRes0_evtCount (v : Word) : (s.setRes0 v).evtCount = s.evtCount := State.setPort_evtCount ..
@[simp] theorem State.setRes0_decPhase (v : Word) : (s.setRes0 v).decPhase = s.decPhase := State.setPort_decPhase ..
@[simp] theorem State.setRes0_decHi (v : Word) : (s.setRes0 v).decHi = s.decHi := State.setPort_decHi ..
@[simp] theorem State.setRes0_decXy (v : Word) : (s.setRes0 v).decXy = s.decXy := State.setPort_decXy ..
@[simp] theorem State.setRes0_decErr (v : Word) : (s.setRes0 v).decErr = s.decErr := State.setPort_decErr ..
@[simp] theorem State.setRes0_modState (v : Word) : (s.setRes0 v).modState = s.modState := State.setPort_modState ..
@[simp] theorem State.setRes0_caps (v : Word) : (s.setRes0 v).caps = s.caps := State.setPort_caps ..
@[simp] theorem State.setRes0_btn0 (v : Word) : (s.setRes0 v).btn0 = s.btn0 := State.setPort_btn0 ..
@[simp] theorem State.setRes0_btn1 (v : Word) : (s.setRes0 v).btn1 = s.btn1 := State.setPort_btn1 ..
@[simp] theorem State.setRes0_btn2 (v : Word) : (s.setRes0 v).btn2 = s.btn2 := State.setPort_btn2 ..
@[simp] theorem State.setRes0_mposValid (v : Word) : (s.setRes0 v).mposValid = s.mposValid := State.setPort_mposValid ..
@[simp] theorem State.setRes0_lastMx (v : Word) : (s.setRes0 v).lastMx = s.lastMx := State.setPort_lastMx ..
@[simp] theorem State.setRes0_lastMy (v : Word) : (s.setRes0 v).lastMy = s.lastMy := State.setPort_lastMy ..
@[simp] theorem State.setRes0_curNewX (v : Word) : (s.setRes0 v).curNewX = s.curNewX := State.setPort_curNewX ..
@[simp] theorem State.setRes0_curNewY (v : Word) : (s.setRes0 v).curNewY = s.curNewY := State.setPort_curNewY ..
@[simp] theorem State.setRes0_q (v : Word) : (s.setRes0 v).q = s.q := State.setPort_q ..
@[simp] theorem State.setRes0_qHead (v : Word) : (s.setRes0 v).qHead = s.qHead := State.setPort_qHead ..
@[simp] theorem State.setRes0_qCount (v : Word) : (s.setRes0 v).qCount = s.qCount := State.setPort_qCount ..
@[simp] theorem State.setRes0_qOvf (v : Word) : (s.setRes0 v).qOvf = s.qOvf := State.setPort_qOvf ..
@[simp] theorem State.setRes0_inSig (v : Word) : (s.setRes0 v).inSig = s.inSig := State.setPort_inSig ..
@[simp] theorem State.setRes0_drX (v : Word) : (s.setRes0 v).drX = s.drX := State.setPort_drX ..
@[simp] theorem State.setRes0_drY (v : Word) : (s.setRes0 v).drY = s.drY := State.setPort_drY ..
@[simp] theorem State.setRes0_drW (v : Word) : (s.setRes0 v).drW = s.drW := State.setPort_drW ..
@[simp] theorem State.setRes0_drH (v : Word) : (s.setRes0 v).drH = s.drH := State.setPort_drH ..
@[simp] theorem State.setRes0_curPrevX (v : Word) : (s.setRes0 v).curPrevX = s.curPrevX := State.setPort_curPrevX ..
@[simp] theorem State.setRes0_curPrevY (v : Word) : (s.setRes0 v).curPrevY = s.curPrevY := State.setPort_curPrevY ..
@[simp] theorem State.setRes0_offX (v : Word) : (s.setRes0 v).offX = s.offX := State.setPort_offX ..
@[simp] theorem State.setRes0_offY (v : Word) : (s.setRes0 v).offY = s.offY := State.setPort_offY ..
@[simp] theorem State.setRes0_swPending (v : Word) : (s.setRes0 v).swPending = s.swPending := State.setPort_swPending ..
@[simp] theorem State.setRes0_swSignal (v : Word) : (s.setRes0 v).swSignal = s.swSignal := State.setPort_swSignal ..
@[simp] theorem State.setRes0_swTick (v : Word) : (s.setRes0 v).swTick = s.swTick := State.setPort_swTick ..
@[simp] theorem State.setRes0_seqPhase (v : Word) : (s.setRes0 v).seqPhase = s.seqPhase := State.setPort_seqPhase ..
@[simp] theorem State.setRes0_termFlag (v : Word) : (s.setRes0 v).termFlag = s.termFlag := State.setPort_termFlag ..
@[simp] theorem State.setRes0_faultCode (v : Word) : (s.setRes0 v).faultCode = s.faultCode := State.setPort_faultCode ..
@[simp] theorem State.setRes0_delayStart (v : Word) : (s.setRes0 v).delayStart = s.delayStart := State.setPort_delayStart ..
@[simp] theorem State.setRes0_ctrl (v : Word) : (s.setRes0 v).ctrl = s.ctrl := State.setPort_ctrl ..
@[simp] theorem State.setRes0_cyclesPerFrame (v : Word) : (s.setRes0 v).cyclesPerFrame = s.cyclesPerFrame := State.setPort_cyclesPerFrame ..
@[simp] theorem State.setRes0_frameDelay (v : Word) : (s.setRes0 v).frameDelay = s.frameDelay := State.setPort_frameDelay ..
@[simp] theorem State.setRes0_fgColor (v : Word) : (s.setRes0 v).fgColor = s.fgColor := State.setPort_fgColor ..
@[simp] theorem State.setRes0_bgColor (v : Word) : (s.setRes0 v).bgColor = s.bgColor := State.setPort_bgColor ..
@[simp] theorem State.setRes0_cursorColor (v : Word) : (s.setRes0 v).cursorColor = s.cursorColor := State.setPort_cursorColor ..
@[simp] theorem State.setRes0_trace (v : Word) : (s.setRes0 v).trace = s.trace := State.setPort_trace ..
@[simp] theorem State.setRes0_clock (v : Word) : (s.setRes0 v).clock = s.clock := State.setPort_clock ..
@[simp] theorem State.setRes0_kbd (v : Word) : (s.setRes0 v).kbd = s.kbd := State.setPort_kbd ..
@[simp] theorem State.setRes0_mouse (v : Word) : (s.setRes0 v).mouse = s.mouse := State.setPort_mouse ..
@[simp] theorem State.setRes0_screen (v : Word) : (s.setRes0 v).screen = s.screen := State.setPort_screen ..
@[simp] theorem State.setRes0_display (v : Word) : (s.setRes0 v).display = s.display := State.setPort_display ..
@[simp] theorem State.setRes0_schedule (v : Word) : (s.setRes0 v).schedule = s.schedule := State.setPort_schedule ..

/-! RES0 and RES1 written. -/

@[simp] theorem State.setRes01_cfg (v0 v1 : Word) : (s.setRes01 v0 v1).cfg = s.cfg := State.setPort_cfg ..
@[simp] theorem State.setRes01_lastTick (v0 v1 : Word) : (s.setRes01 v0 v1).lastTick = s.lastTick := State.setPort_lastTick ..
@[simp] theorem State.setRes01_tsValid (v0 v1 : Word) : (s.setRes01 v0 v1).tsValid = s.tsValid := State.setPort_tsValid ..
@[simp] theorem State.setRes01_evtCount (v0 v1 : Word) : (s.setRes01 v0 v1).evtCount = s.evtCount := State.setPort_evtCount ..
@[simp] theorem State.setRes01_decPhase (v0 v1 : Word) : (s.setRes01 v0 v1).decPhase = s.decPhase := State.setPort_decPhase ..
@[simp] theorem State.setRes01_decHi (v0 v1 : Word) : (s.setRes01 v0 v1).decHi = s.decHi := State.setPort_decHi ..
@[simp] theorem State.setRes01_decXy (v0 v1 : Word) : (s.setRes01 v0 v1).decXy = s.decXy := State.setPort_decXy ..
@[simp] theorem State.setRes01_decErr (v0 v1 : Word) : (s.setRes01 v0 v1).decErr = s.decErr := State.setPort_decErr ..
@[simp] theorem State.setRes01_modState (v0 v1 : Word) : (s.setRes01 v0 v1).modState = s.modState := State.setPort_modState ..
@[simp] theorem State.setRes01_caps (v0 v1 : Word) : (s.setRes01 v0 v1).caps = s.caps := State.setPort_caps ..
@[simp] theorem State.setRes01_btn0 (v0 v1 : Word) : (s.setRes01 v0 v1).btn0 = s.btn0 := State.setPort_btn0 ..
@[simp] theorem State.setRes01_btn1 (v0 v1 : Word) : (s.setRes01 v0 v1).btn1 = s.btn1 := State.setPort_btn1 ..
@[simp] theorem State.setRes01_btn2 (v0 v1 : Word) : (s.setRes01 v0 v1).btn2 = s.btn2 := State.setPort_btn2 ..
@[simp] theorem State.setRes01_mposValid (v0 v1 : Word) : (s.setRes01 v0 v1).mposValid = s.mposValid := State.setPort_mposValid ..
@[simp] theorem State.setRes01_lastMx (v0 v1 : Word) : (s.setRes01 v0 v1).lastMx = s.lastMx := State.setPort_lastMx ..
@[simp] theorem State.setRes01_lastMy (v0 v1 : Word) : (s.setRes01 v0 v1).lastMy = s.lastMy := State.setPort_lastMy ..
@[simp] theorem State.setRes01_curNewX (v0 v1 : Word) : (s.setRes01 v0 v1).curNewX = s.curNewX := State.setPort_curNewX ..
@[simp] theorem State.setRes01_curNewY (v0 v1 : Word) : (s.setRes01 v0 v1).curNewY = s.curNewY := State.setPort_curNewY ..
@[simp] theorem State.setRes01_q (v0 v1 : Word) : (s.setRes01 v0 v1).q = s.q := State.setPort_q ..
@[simp] theorem State.setRes01_qHead (v0 v1 : Word) : (s.setRes01 v0 v1).qHead = s.qHead := State.setPort_qHead ..
@[simp] theorem State.setRes01_qCount (v0 v1 : Word) : (s.setRes01 v0 v1).qCount = s.qCount := State.setPort_qCount ..
@[simp] theorem State.setRes01_qOvf (v0 v1 : Word) : (s.setRes01 v0 v1).qOvf = s.qOvf := State.setPort_qOvf ..
@[simp] theorem State.setRes01_inSig (v0 v1 : Word) : (s.setRes01 v0 v1).inSig = s.inSig := State.setPort_inSig ..
@[simp] theorem State.setRes01_drX (v0 v1 : Word) : (s.setRes01 v0 v1).drX = s.drX := State.setPort_drX ..
@[simp] theorem State.setRes01_drY (v0 v1 : Word) : (s.setRes01 v0 v1).drY = s.drY := State.setPort_drY ..
@[simp] theorem State.setRes01_drW (v0 v1 : Word) : (s.setRes01 v0 v1).drW = s.drW := State.setPort_drW ..
@[simp] theorem State.setRes01_drH (v0 v1 : Word) : (s.setRes01 v0 v1).drH = s.drH := State.setPort_drH ..
@[simp] theorem State.setRes01_curPrevX (v0 v1 : Word) : (s.setRes01 v0 v1).curPrevX = s.curPrevX := State.setPort_curPrevX ..
@[simp] theorem State.setRes01_curPrevY (v0 v1 : Word) : (s.setRes01 v0 v1).curPrevY = s.curPrevY := State.setPort_curPrevY ..
@[simp] theorem State.setRes01_offX (v0 v1 : Word) : (s.setRes01 v0 v1).offX = s.offX := State.setPort_offX ..
@[simp] theorem State.setRes01_offY (v0 v1 : Word) : (s.setRes01 v0 v1).offY = s.offY := State.setPort_offY ..
@[simp] theorem State.setRes01_swPending (v0 v1 : Word) : (s.setRes01 v0 v1).swPending = s.swPending := State.setPort_swPending ..
@[simp] theorem State.setRes01_swSignal (v0 v1 : Word) : (s.setRes01 v0 v1).swSignal = s.swSignal := State.setPort_swSignal ..
@[simp] theorem State.setRes01_swTick (v0 v1 : Word) : (s.setRes01 v0 v1).swTick = s.swTick := State.setPort_swTick ..
@[simp] theorem State.setRes01_seqPhase (v0 v1 : Word) : (s.setRes01 v0 v1).seqPhase = s.seqPhase := State.setPort_seqPhase ..
@[simp] theorem State.setRes01_termFlag (v0 v1 : Word) : (s.setRes01 v0 v1).termFlag = s.termFlag := State.setPort_termFlag ..
@[simp] theorem State.setRes01_faultCode (v0 v1 : Word) : (s.setRes01 v0 v1).faultCode = s.faultCode := State.setPort_faultCode ..
@[simp] theorem State.setRes01_delayStart (v0 v1 : Word) : (s.setRes01 v0 v1).delayStart = s.delayStart := State.setPort_delayStart ..
@[simp] theorem State.setRes01_ctrl (v0 v1 : Word) : (s.setRes01 v0 v1).ctrl = s.ctrl := State.setPort_ctrl ..
@[simp] theorem State.setRes01_cyclesPerFrame (v0 v1 : Word) : (s.setRes01 v0 v1).cyclesPerFrame = s.cyclesPerFrame := State.setPort_cyclesPerFrame ..
@[simp] theorem State.setRes01_frameDelay (v0 v1 : Word) : (s.setRes01 v0 v1).frameDelay = s.frameDelay := State.setPort_frameDelay ..
@[simp] theorem State.setRes01_fgColor (v0 v1 : Word) : (s.setRes01 v0 v1).fgColor = s.fgColor := State.setPort_fgColor ..
@[simp] theorem State.setRes01_bgColor (v0 v1 : Word) : (s.setRes01 v0 v1).bgColor = s.bgColor := State.setPort_bgColor ..
@[simp] theorem State.setRes01_cursorColor (v0 v1 : Word) : (s.setRes01 v0 v1).cursorColor = s.cursorColor := State.setPort_cursorColor ..
@[simp] theorem State.setRes01_trace (v0 v1 : Word) : (s.setRes01 v0 v1).trace = s.trace := State.setPort_trace ..
@[simp] theorem State.setRes01_clock (v0 v1 : Word) : (s.setRes01 v0 v1).clock = s.clock := State.setPort_clock ..
@[simp] theorem State.setRes01_kbd (v0 v1 : Word) : (s.setRes01 v0 v1).kbd = s.kbd := State.setPort_kbd ..
@[simp] theorem State.setRes01_mouse (v0 v1 : Word) : (s.setRes01 v0 v1).mouse = s.mouse := State.setPort_mouse ..
@[simp] theorem State.setRes01_screen (v0 v1 : Word) : (s.setRes01 v0 v1).screen = s.screen := State.setPort_screen ..
@[simp] theorem State.setRes01_display (v0 v1 : Word) : (s.setRes01 v0 v1).display = s.display := State.setPort_display ..
@[simp] theorem State.setRes01_schedule (v0 v1 : Word) : (s.setRes01 v0 v1).schedule = s.schedule := State.setPort_schedule ..

/-! RES0 to RES3 written. -/

@[simp] theorem State.setRes_cfg (v0 v1 v2 v3 : Word) : (s.setRes v0 v1 v2 v3).cfg = s.cfg := State.setPort_cfg ..
@[simp] theorem State.setRes_lastTick (v0 v1 v2 v3 : Word) : (s.setRes v0 v1 v2 v3).lastTick = s.lastTick := State.setPort_lastTick ..
@[simp] theorem State.setRes_tsValid (v0 v1 v2 v3 : Word) : (s.setRes v0 v1 v2 v3).tsValid = s.tsValid := State.setPort_tsValid ..
@[simp] theorem State.setRes_evtCount (v0 v1 v2 v3 : Word) : (s.setRes v0 v1 v2 v3).evtCount = s.evtCount := State.setPort_evtCount ..
@[simp] theorem State.setRes_decPhase (v0 v1 v2 v3 : Word) : (s.setRes v0 v1 v2 v3).decPhase = s.decPhase := State.setPort_decPhase ..
@[simp] theorem State.setRes_decHi (v0 v1 v2 v3 : Word) : (s.setRes v0 v1 v2 v3).decHi = s.decHi := State.setPort_decHi ..
@[simp] theorem State.setRes_decXy (v0 v1 v2 v3 : Word) : (s.setRes v0 v1 v2 v3).decXy = s.decXy := State.setPort_decXy ..
@[simp] theorem State.setRes_decErr (v0 v1 v2 v3 : Word) : (s.setRes v0 v1 v2 v3).decErr = s.decErr := State.setPort_decErr ..
@[simp] theorem State.setRes_modState (v0 v1 v2 v3 : Word) : (s.setRes v0 v1 v2 v3).modState = s.modState := State.setPort_modState ..
@[simp] theorem State.setRes_caps (v0 v1 v2 v3 : Word) : (s.setRes v0 v1 v2 v3).caps = s.caps := State.setPort_caps ..
@[simp] theorem State.setRes_btn0 (v0 v1 v2 v3 : Word) : (s.setRes v0 v1 v2 v3).btn0 = s.btn0 := State.setPort_btn0 ..
@[simp] theorem State.setRes_btn1 (v0 v1 v2 v3 : Word) : (s.setRes v0 v1 v2 v3).btn1 = s.btn1 := State.setPort_btn1 ..
@[simp] theorem State.setRes_btn2 (v0 v1 v2 v3 : Word) : (s.setRes v0 v1 v2 v3).btn2 = s.btn2 := State.setPort_btn2 ..
@[simp] theorem State.setRes_mposValid (v0 v1 v2 v3 : Word) : (s.setRes v0 v1 v2 v3).mposValid = s.mposValid := State.setPort_mposValid ..
@[simp] theorem State.setRes_lastMx (v0 v1 v2 v3 : Word) : (s.setRes v0 v1 v2 v3).lastMx = s.lastMx := State.setPort_lastMx ..
@[simp] theorem State.setRes_lastMy (v0 v1 v2 v3 : Word) : (s.setRes v0 v1 v2 v3).lastMy = s.lastMy := State.setPort_lastMy ..
@[simp] theorem State.setRes_curNewX (v0 v1 v2 v3 : Word) : (s.setRes v0 v1 v2 v3).curNewX = s.curNewX := State.setPort_curNewX ..
@[simp] theorem State.setRes_curNewY (v0 v1 v2 v3 : Word) : (s.setRes v0 v1 v2 v3).curNewY = s.curNewY := State.setPort_curNewY ..
@[simp] theorem State.setRes_q (v0 v1 v2 v3 : Word) : (s.setRes v0 v1 v2 v3).q = s.q := State.setPort_q ..
@[simp] theorem State.setRes_qHead (v0 v1 v2 v3 : Word) : (s.setRes v0 v1 v2 v3).qHead = s.qHead := State.setPort_qHead ..
@[simp] theorem State.setRes_qCount (v0 v1 v2 v3 : Word) : (s.setRes v0 v1 v2 v3).qCount = s.qCount := State.setPort_qCount ..
@[simp] theorem State.setRes_qOvf (v0 v1 v2 v3 : Word) : (s.setRes v0 v1 v2 v3).qOvf = s.qOvf := State.setPort_qOvf ..
@[simp] theorem State.setRes_inSig (v0 v1 v2 v3 : Word) : (s.setRes v0 v1 v2 v3).inSig = s.inSig := State.setPort_inSig ..
@[simp] theorem State.setRes_drX (v0 v1 v2 v3 : Word) : (s.setRes v0 v1 v2 v3).drX = s.drX := State.setPort_drX ..
@[simp] theorem State.setRes_drY (v0 v1 v2 v3 : Word) : (s.setRes v0 v1 v2 v3).drY = s.drY := State.setPort_drY ..
@[simp] theorem State.setRes_drW (v0 v1 v2 v3 : Word) : (s.setRes v0 v1 v2 v3).drW = s.drW := State.setPort_drW ..
@[simp] theorem State.setRes_drH (v0 v1 v2 v3 : Word) : (s.setRes v0 v1 v2 v3).drH = s.drH := State.setPort_drH ..
@[simp] theorem State.setRes_curPrevX (v0 v1 v2 v3 : Word) : (s.setRes v0 v1 v2 v3).curPrevX = s.curPrevX := State.setPort_curPrevX ..
@[simp] theorem State.setRes_curPrevY (v0 v1 v2 v3 : Word) : (s.setRes v0 v1 v2 v3).curPrevY = s.curPrevY := State.setPort_curPrevY ..
@[simp] theorem State.setRes_offX (v0 v1 v2 v3 : Word) : (s.setRes v0 v1 v2 v3).offX = s.offX := State.setPort_offX ..
@[simp] theorem State.setRes_offY (v0 v1 v2 v3 : Word) : (s.setRes v0 v1 v2 v3).offY = s.offY := State.setPort_offY ..
@[simp] theorem State.setRes_swPending (v0 v1 v2 v3 : Word) : (s.setRes v0 v1 v2 v3).swPending = s.swPending := State.setPort_swPending ..
@[simp] theorem State.setRes_swSignal (v0 v1 v2 v3 : Word) : (s.setRes v0 v1 v2 v3).swSignal = s.swSignal := State.setPort_swSignal ..
@[simp] theorem State.setRes_swTick (v0 v1 v2 v3 : Word) : (s.setRes v0 v1 v2 v3).swTick = s.swTick := State.setPort_swTick ..
@[simp] theorem State.setRes_seqPhase (v0 v1 v2 v3 : Word) : (s.setRes v0 v1 v2 v3).seqPhase = s.seqPhase := State.setPort_seqPhase ..
@[simp] theorem State.setRes_termFlag (v0 v1 v2 v3 : Word) : (s.setRes v0 v1 v2 v3).termFlag = s.termFlag := State.setPort_termFlag ..
@[simp] theorem State.setRes_faultCode (v0 v1 v2 v3 : Word) : (s.setRes v0 v1 v2 v3).faultCode = s.faultCode := State.setPort_faultCode ..
@[simp] theorem State.setRes_delayStart (v0 v1 v2 v3 : Word) : (s.setRes v0 v1 v2 v3).delayStart = s.delayStart := State.setPort_delayStart ..
@[simp] theorem State.setRes_ctrl (v0 v1 v2 v3 : Word) : (s.setRes v0 v1 v2 v3).ctrl = s.ctrl := State.setPort_ctrl ..
@[simp] theorem State.setRes_cyclesPerFrame (v0 v1 v2 v3 : Word) : (s.setRes v0 v1 v2 v3).cyclesPerFrame = s.cyclesPerFrame := State.setPort_cyclesPerFrame ..
@[simp] theorem State.setRes_frameDelay (v0 v1 v2 v3 : Word) : (s.setRes v0 v1 v2 v3).frameDelay = s.frameDelay := State.setPort_frameDelay ..
@[simp] theorem State.setRes_fgColor (v0 v1 v2 v3 : Word) : (s.setRes v0 v1 v2 v3).fgColor = s.fgColor := State.setPort_fgColor ..
@[simp] theorem State.setRes_bgColor (v0 v1 v2 v3 : Word) : (s.setRes v0 v1 v2 v3).bgColor = s.bgColor := State.setPort_bgColor ..
@[simp] theorem State.setRes_cursorColor (v0 v1 v2 v3 : Word) : (s.setRes v0 v1 v2 v3).cursorColor = s.cursorColor := State.setPort_cursorColor ..
@[simp] theorem State.setRes_trace (v0 v1 v2 v3 : Word) : (s.setRes v0 v1 v2 v3).trace = s.trace := State.setPort_trace ..
@[simp] theorem State.setRes_clock (v0 v1 v2 v3 : Word) : (s.setRes v0 v1 v2 v3).clock = s.clock := State.setPort_clock ..
@[simp] theorem State.setRes_kbd (v0 v1 v2 v3 : Word) : (s.setRes v0 v1 v2 v3).kbd = s.kbd := State.setPort_kbd ..
@[simp] theorem State.setRes_mouse (v0 v1 v2 v3 : Word) : (s.setRes v0 v1 v2 v3).mouse = s.mouse := State.setPort_mouse ..
@[simp] theorem State.setRes_screen (v0 v1 v2 v3 : Word) : (s.setRes v0 v1 v2 v3).screen = s.screen := State.setPort_screen ..
@[simp] theorem State.setRes_display (v0 v1 v2 v3 : Word) : (s.setRes v0 v1 v2 v3).display = s.display := State.setPort_display ..
@[simp] theorem State.setRes_schedule (v0 v1 v2 v3 : Word) : (s.setRes v0 v1 v2 v3).schedule = s.schedule := State.setPort_schedule ..

/-! A decoder token returned. -/

@[simp] theorem State.token_cfg (k : TokenKind) (v : Word) : (s.token k v).cfg = s.cfg := State.setPort_cfg ..
@[simp] theorem State.token_lastTick (k : TokenKind) (v : Word) : (s.token k v).lastTick = s.lastTick := State.setPort_lastTick ..
@[simp] theorem State.token_tsValid (k : TokenKind) (v : Word) : (s.token k v).tsValid = s.tsValid := State.setPort_tsValid ..
@[simp] theorem State.token_evtCount (k : TokenKind) (v : Word) : (s.token k v).evtCount = s.evtCount := State.setPort_evtCount ..
@[simp] theorem State.token_decPhase (k : TokenKind) (v : Word) : (s.token k v).decPhase = s.decPhase := State.setPort_decPhase ..
@[simp] theorem State.token_decHi (k : TokenKind) (v : Word) : (s.token k v).decHi = s.decHi := State.setPort_decHi ..
@[simp] theorem State.token_decXy (k : TokenKind) (v : Word) : (s.token k v).decXy = s.decXy := State.setPort_decXy ..
@[simp] theorem State.token_decErr (k : TokenKind) (v : Word) : (s.token k v).decErr = s.decErr := State.setPort_decErr ..
@[simp] theorem State.token_modState (k : TokenKind) (v : Word) : (s.token k v).modState = s.modState := State.setPort_modState ..
@[simp] theorem State.token_caps (k : TokenKind) (v : Word) : (s.token k v).caps = s.caps := State.setPort_caps ..
@[simp] theorem State.token_btn0 (k : TokenKind) (v : Word) : (s.token k v).btn0 = s.btn0 := State.setPort_btn0 ..
@[simp] theorem State.token_btn1 (k : TokenKind) (v : Word) : (s.token k v).btn1 = s.btn1 := State.setPort_btn1 ..
@[simp] theorem State.token_btn2 (k : TokenKind) (v : Word) : (s.token k v).btn2 = s.btn2 := State.setPort_btn2 ..
@[simp] theorem State.token_mposValid (k : TokenKind) (v : Word) : (s.token k v).mposValid = s.mposValid := State.setPort_mposValid ..
@[simp] theorem State.token_lastMx (k : TokenKind) (v : Word) : (s.token k v).lastMx = s.lastMx := State.setPort_lastMx ..
@[simp] theorem State.token_lastMy (k : TokenKind) (v : Word) : (s.token k v).lastMy = s.lastMy := State.setPort_lastMy ..
@[simp] theorem State.token_curNewX (k : TokenKind) (v : Word) : (s.token k v).curNewX = s.curNewX := State.setPort_curNewX ..
@[simp] theorem State.token_curNewY (k : TokenKind) (v : Word) : (s.token k v).curNewY = s.curNewY := State.setPort_curNewY ..
@[simp] theorem State.token_q (k : TokenKind) (v : Word) : (s.token k v).q = s.q := State.setPort_q ..
@[simp] theorem State.token_qHead (k : TokenKind) (v : Word) : (s.token k v).qHead = s.qHead := State.setPort_qHead ..
@[simp] theorem State.token_qCount (k : TokenKind) (v : Word) : (s.token k v).qCount = s.qCount := State.setPort_qCount ..
@[simp] theorem State.token_qOvf (k : TokenKind) (v : Word) : (s.token k v).qOvf = s.qOvf := State.setPort_qOvf ..
@[simp] theorem State.token_inSig (k : TokenKind) (v : Word) : (s.token k v).inSig = s.inSig := State.setPort_inSig ..
@[simp] theorem State.token_drX (k : TokenKind) (v : Word) : (s.token k v).drX = s.drX := State.setPort_drX ..
@[simp] theorem State.token_drY (k : TokenKind) (v : Word) : (s.token k v).drY = s.drY := State.setPort_drY ..
@[simp] theorem State.token_drW (k : TokenKind) (v : Word) : (s.token k v).drW = s.drW := State.setPort_drW ..
@[simp] theorem State.token_drH (k : TokenKind) (v : Word) : (s.token k v).drH = s.drH := State.setPort_drH ..
@[simp] theorem State.token_curPrevX (k : TokenKind) (v : Word) : (s.token k v).curPrevX = s.curPrevX := State.setPort_curPrevX ..
@[simp] theorem State.token_curPrevY (k : TokenKind) (v : Word) : (s.token k v).curPrevY = s.curPrevY := State.setPort_curPrevY ..
@[simp] theorem State.token_offX (k : TokenKind) (v : Word) : (s.token k v).offX = s.offX := State.setPort_offX ..
@[simp] theorem State.token_offY (k : TokenKind) (v : Word) : (s.token k v).offY = s.offY := State.setPort_offY ..
@[simp] theorem State.token_swPending (k : TokenKind) (v : Word) : (s.token k v).swPending = s.swPending := State.setPort_swPending ..
@[simp] theorem State.token_swSignal (k : TokenKind) (v : Word) : (s.token k v).swSignal = s.swSignal := State.setPort_swSignal ..
@[simp] theorem State.token_swTick (k : TokenKind) (v : Word) : (s.token k v).swTick = s.swTick := State.setPort_swTick ..
@[simp] theorem State.token_seqPhase (k : TokenKind) (v : Word) : (s.token k v).seqPhase = s.seqPhase := State.setPort_seqPhase ..
@[simp] theorem State.token_termFlag (k : TokenKind) (v : Word) : (s.token k v).termFlag = s.termFlag := State.setPort_termFlag ..
@[simp] theorem State.token_faultCode (k : TokenKind) (v : Word) : (s.token k v).faultCode = s.faultCode := State.setPort_faultCode ..
@[simp] theorem State.token_delayStart (k : TokenKind) (v : Word) : (s.token k v).delayStart = s.delayStart := State.setPort_delayStart ..
@[simp] theorem State.token_ctrl (k : TokenKind) (v : Word) : (s.token k v).ctrl = s.ctrl := State.setPort_ctrl ..
@[simp] theorem State.token_cyclesPerFrame (k : TokenKind) (v : Word) : (s.token k v).cyclesPerFrame = s.cyclesPerFrame := State.setPort_cyclesPerFrame ..
@[simp] theorem State.token_frameDelay (k : TokenKind) (v : Word) : (s.token k v).frameDelay = s.frameDelay := State.setPort_frameDelay ..
@[simp] theorem State.token_fgColor (k : TokenKind) (v : Word) : (s.token k v).fgColor = s.fgColor := State.setPort_fgColor ..
@[simp] theorem State.token_bgColor (k : TokenKind) (v : Word) : (s.token k v).bgColor = s.bgColor := State.setPort_bgColor ..
@[simp] theorem State.token_cursorColor (k : TokenKind) (v : Word) : (s.token k v).cursorColor = s.cursorColor := State.setPort_cursorColor ..
@[simp] theorem State.token_trace (k : TokenKind) (v : Word) : (s.token k v).trace = s.trace := State.setPort_trace ..
@[simp] theorem State.token_clock (k : TokenKind) (v : Word) : (s.token k v).clock = s.clock := State.setPort_clock ..
@[simp] theorem State.token_kbd (k : TokenKind) (v : Word) : (s.token k v).kbd = s.kbd := State.setPort_kbd ..
@[simp] theorem State.token_mouse (k : TokenKind) (v : Word) : (s.token k v).mouse = s.mouse := State.setPort_mouse ..
@[simp] theorem State.token_screen (k : TokenKind) (v : Word) : (s.token k v).screen = s.screen := State.setPort_screen ..
@[simp] theorem State.token_display (k : TokenKind) (v : Word) : (s.token k v).display = s.display := State.setPort_display ..
@[simp] theorem State.token_schedule (k : TokenKind) (v : Word) : (s.token k v).schedule = s.schedule := State.setPort_schedule ..

/-! A waiting command accepted. -/

@[simp] theorem State.accept_cfg (n : PortName) : (s.accept n).cfg = s.cfg := State.setPort_cfg ..
@[simp] theorem State.accept_lastTick (n : PortName) : (s.accept n).lastTick = s.lastTick := State.setPort_lastTick ..
@[simp] theorem State.accept_tsValid (n : PortName) : (s.accept n).tsValid = s.tsValid := State.setPort_tsValid ..
@[simp] theorem State.accept_evtCount (n : PortName) : (s.accept n).evtCount = s.evtCount := State.setPort_evtCount ..
@[simp] theorem State.accept_decPhase (n : PortName) : (s.accept n).decPhase = s.decPhase := State.setPort_decPhase ..
@[simp] theorem State.accept_decHi (n : PortName) : (s.accept n).decHi = s.decHi := State.setPort_decHi ..
@[simp] theorem State.accept_decXy (n : PortName) : (s.accept n).decXy = s.decXy := State.setPort_decXy ..
@[simp] theorem State.accept_decErr (n : PortName) : (s.accept n).decErr = s.decErr := State.setPort_decErr ..
@[simp] theorem State.accept_modState (n : PortName) : (s.accept n).modState = s.modState := State.setPort_modState ..
@[simp] theorem State.accept_caps (n : PortName) : (s.accept n).caps = s.caps := State.setPort_caps ..
@[simp] theorem State.accept_btn0 (n : PortName) : (s.accept n).btn0 = s.btn0 := State.setPort_btn0 ..
@[simp] theorem State.accept_btn1 (n : PortName) : (s.accept n).btn1 = s.btn1 := State.setPort_btn1 ..
@[simp] theorem State.accept_btn2 (n : PortName) : (s.accept n).btn2 = s.btn2 := State.setPort_btn2 ..
@[simp] theorem State.accept_mposValid (n : PortName) : (s.accept n).mposValid = s.mposValid := State.setPort_mposValid ..
@[simp] theorem State.accept_lastMx (n : PortName) : (s.accept n).lastMx = s.lastMx := State.setPort_lastMx ..
@[simp] theorem State.accept_lastMy (n : PortName) : (s.accept n).lastMy = s.lastMy := State.setPort_lastMy ..
@[simp] theorem State.accept_curNewX (n : PortName) : (s.accept n).curNewX = s.curNewX := State.setPort_curNewX ..
@[simp] theorem State.accept_curNewY (n : PortName) : (s.accept n).curNewY = s.curNewY := State.setPort_curNewY ..
@[simp] theorem State.accept_q (n : PortName) : (s.accept n).q = s.q := State.setPort_q ..
@[simp] theorem State.accept_qHead (n : PortName) : (s.accept n).qHead = s.qHead := State.setPort_qHead ..
@[simp] theorem State.accept_qCount (n : PortName) : (s.accept n).qCount = s.qCount := State.setPort_qCount ..
@[simp] theorem State.accept_qOvf (n : PortName) : (s.accept n).qOvf = s.qOvf := State.setPort_qOvf ..
@[simp] theorem State.accept_inSig (n : PortName) : (s.accept n).inSig = s.inSig := State.setPort_inSig ..
@[simp] theorem State.accept_drX (n : PortName) : (s.accept n).drX = s.drX := State.setPort_drX ..
@[simp] theorem State.accept_drY (n : PortName) : (s.accept n).drY = s.drY := State.setPort_drY ..
@[simp] theorem State.accept_drW (n : PortName) : (s.accept n).drW = s.drW := State.setPort_drW ..
@[simp] theorem State.accept_drH (n : PortName) : (s.accept n).drH = s.drH := State.setPort_drH ..
@[simp] theorem State.accept_curPrevX (n : PortName) : (s.accept n).curPrevX = s.curPrevX := State.setPort_curPrevX ..
@[simp] theorem State.accept_curPrevY (n : PortName) : (s.accept n).curPrevY = s.curPrevY := State.setPort_curPrevY ..
@[simp] theorem State.accept_offX (n : PortName) : (s.accept n).offX = s.offX := State.setPort_offX ..
@[simp] theorem State.accept_offY (n : PortName) : (s.accept n).offY = s.offY := State.setPort_offY ..
@[simp] theorem State.accept_swPending (n : PortName) : (s.accept n).swPending = s.swPending := State.setPort_swPending ..
@[simp] theorem State.accept_swSignal (n : PortName) : (s.accept n).swSignal = s.swSignal := State.setPort_swSignal ..
@[simp] theorem State.accept_swTick (n : PortName) : (s.accept n).swTick = s.swTick := State.setPort_swTick ..
@[simp] theorem State.accept_seqPhase (n : PortName) : (s.accept n).seqPhase = s.seqPhase := State.setPort_seqPhase ..
@[simp] theorem State.accept_termFlag (n : PortName) : (s.accept n).termFlag = s.termFlag := State.setPort_termFlag ..
@[simp] theorem State.accept_faultCode (n : PortName) : (s.accept n).faultCode = s.faultCode := State.setPort_faultCode ..
@[simp] theorem State.accept_delayStart (n : PortName) : (s.accept n).delayStart = s.delayStart := State.setPort_delayStart ..
@[simp] theorem State.accept_ctrl (n : PortName) : (s.accept n).ctrl = s.ctrl := State.setPort_ctrl ..
@[simp] theorem State.accept_cyclesPerFrame (n : PortName) : (s.accept n).cyclesPerFrame = s.cyclesPerFrame := State.setPort_cyclesPerFrame ..
@[simp] theorem State.accept_frameDelay (n : PortName) : (s.accept n).frameDelay = s.frameDelay := State.setPort_frameDelay ..
@[simp] theorem State.accept_fgColor (n : PortName) : (s.accept n).fgColor = s.fgColor := State.setPort_fgColor ..
@[simp] theorem State.accept_bgColor (n : PortName) : (s.accept n).bgColor = s.bgColor := State.setPort_bgColor ..
@[simp] theorem State.accept_cursorColor (n : PortName) : (s.accept n).cursorColor = s.cursorColor := State.setPort_cursorColor ..
@[simp] theorem State.accept_trace (n : PortName) : (s.accept n).trace = s.trace := State.setPort_trace ..
@[simp] theorem State.accept_clock (n : PortName) : (s.accept n).clock = s.clock := State.setPort_clock ..
@[simp] theorem State.accept_kbd (n : PortName) : (s.accept n).kbd = s.kbd := State.setPort_kbd ..
@[simp] theorem State.accept_mouse (n : PortName) : (s.accept n).mouse = s.mouse := State.setPort_mouse ..
@[simp] theorem State.accept_screen (n : PortName) : (s.accept n).screen = s.screen := State.setPort_screen ..
@[simp] theorem State.accept_display (n : PortName) : (s.accept n).display = s.display := State.setPort_display ..
@[simp] theorem State.accept_schedule (n : PortName) : (s.accept n).schedule = s.schedule := State.setPort_schedule ..

/-! One word enqueued, and a list of words. -/

theorem State.enqueue_eq (w : Half) : s.enqueue w =
    { s with
      q := s.q.write ((s.qHead + s.qCount) % s.cfg.qdepth) w
      qCount := s.qCount + 1
      trace := s.trace ++ if wakeOnEnqueue s.cfg.wakePolicy (s.qCount == 0) then [.signal .inputReady s.inSig] else [] } := by
  simp only [State.enqueue, State.signal, State.emitOutputs]
  split <;> simp_all

@[simp] theorem State.enqueue_cfg (w : Half) : (s.enqueue w).cfg = s.cfg := by rw [State.enqueue_eq]
@[simp] theorem State.enqueue_host (w : Half) : (s.enqueue w).host = s.host := by rw [State.enqueue_eq]
@[simp] theorem State.enqueue_peer (w : Half) : (s.enqueue w).peer = s.peer := by rw [State.enqueue_eq]
@[simp] theorem State.enqueue_lastTick (w : Half) : (s.enqueue w).lastTick = s.lastTick := by rw [State.enqueue_eq]
@[simp] theorem State.enqueue_tsValid (w : Half) : (s.enqueue w).tsValid = s.tsValid := by rw [State.enqueue_eq]
@[simp] theorem State.enqueue_evtCount (w : Half) : (s.enqueue w).evtCount = s.evtCount := by rw [State.enqueue_eq]
@[simp] theorem State.enqueue_decPhase (w : Half) : (s.enqueue w).decPhase = s.decPhase := by rw [State.enqueue_eq]
@[simp] theorem State.enqueue_decHi (w : Half) : (s.enqueue w).decHi = s.decHi := by rw [State.enqueue_eq]
@[simp] theorem State.enqueue_decXy (w : Half) : (s.enqueue w).decXy = s.decXy := by rw [State.enqueue_eq]
@[simp] theorem State.enqueue_decErr (w : Half) : (s.enqueue w).decErr = s.decErr := by rw [State.enqueue_eq]
@[simp] theorem State.enqueue_modState (w : Half) : (s.enqueue w).modState = s.modState := by rw [State.enqueue_eq]
@[simp] theorem State.enqueue_caps (w : Half) : (s.enqueue w).caps = s.caps := by rw [State.enqueue_eq]
@[simp] theorem State.enqueue_btn0 (w : Half) : (s.enqueue w).btn0 = s.btn0 := by rw [State.enqueue_eq]
@[simp] theorem State.enqueue_btn1 (w : Half) : (s.enqueue w).btn1 = s.btn1 := by rw [State.enqueue_eq]
@[simp] theorem State.enqueue_btn2 (w : Half) : (s.enqueue w).btn2 = s.btn2 := by rw [State.enqueue_eq]
@[simp] theorem State.enqueue_mposValid (w : Half) : (s.enqueue w).mposValid = s.mposValid := by rw [State.enqueue_eq]
@[simp] theorem State.enqueue_lastMx (w : Half) : (s.enqueue w).lastMx = s.lastMx := by rw [State.enqueue_eq]
@[simp] theorem State.enqueue_lastMy (w : Half) : (s.enqueue w).lastMy = s.lastMy := by rw [State.enqueue_eq]
@[simp] theorem State.enqueue_curNewX (w : Half) : (s.enqueue w).curNewX = s.curNewX := by rw [State.enqueue_eq]
@[simp] theorem State.enqueue_curNewY (w : Half) : (s.enqueue w).curNewY = s.curNewY := by rw [State.enqueue_eq]
@[simp] theorem State.enqueue_q (w : Half) : (s.enqueue w).q = s.q.write ((s.qHead + s.qCount) % s.cfg.qdepth) w := by rw [State.enqueue_eq]
@[simp] theorem State.enqueue_qHead (w : Half) : (s.enqueue w).qHead = s.qHead := by rw [State.enqueue_eq]
@[simp] theorem State.enqueue_qCount (w : Half) : (s.enqueue w).qCount = s.qCount + 1 := by rw [State.enqueue_eq]
@[simp] theorem State.enqueue_qOvf (w : Half) : (s.enqueue w).qOvf = s.qOvf := by rw [State.enqueue_eq]
@[simp] theorem State.enqueue_inSig (w : Half) : (s.enqueue w).inSig = s.inSig := by rw [State.enqueue_eq]
@[simp] theorem State.enqueue_drX (w : Half) : (s.enqueue w).drX = s.drX := by rw [State.enqueue_eq]
@[simp] theorem State.enqueue_drY (w : Half) : (s.enqueue w).drY = s.drY := by rw [State.enqueue_eq]
@[simp] theorem State.enqueue_drW (w : Half) : (s.enqueue w).drW = s.drW := by rw [State.enqueue_eq]
@[simp] theorem State.enqueue_drH (w : Half) : (s.enqueue w).drH = s.drH := by rw [State.enqueue_eq]
@[simp] theorem State.enqueue_curPrevX (w : Half) : (s.enqueue w).curPrevX = s.curPrevX := by rw [State.enqueue_eq]
@[simp] theorem State.enqueue_curPrevY (w : Half) : (s.enqueue w).curPrevY = s.curPrevY := by rw [State.enqueue_eq]
@[simp] theorem State.enqueue_offX (w : Half) : (s.enqueue w).offX = s.offX := by rw [State.enqueue_eq]
@[simp] theorem State.enqueue_offY (w : Half) : (s.enqueue w).offY = s.offY := by rw [State.enqueue_eq]
@[simp] theorem State.enqueue_swPending (w : Half) : (s.enqueue w).swPending = s.swPending := by rw [State.enqueue_eq]
@[simp] theorem State.enqueue_swSignal (w : Half) : (s.enqueue w).swSignal = s.swSignal := by rw [State.enqueue_eq]
@[simp] theorem State.enqueue_swTick (w : Half) : (s.enqueue w).swTick = s.swTick := by rw [State.enqueue_eq]
@[simp] theorem State.enqueue_seqPhase (w : Half) : (s.enqueue w).seqPhase = s.seqPhase := by rw [State.enqueue_eq]
@[simp] theorem State.enqueue_termFlag (w : Half) : (s.enqueue w).termFlag = s.termFlag := by rw [State.enqueue_eq]
@[simp] theorem State.enqueue_faultCode (w : Half) : (s.enqueue w).faultCode = s.faultCode := by rw [State.enqueue_eq]
@[simp] theorem State.enqueue_delayStart (w : Half) : (s.enqueue w).delayStart = s.delayStart := by rw [State.enqueue_eq]
@[simp] theorem State.enqueue_ctrl (w : Half) : (s.enqueue w).ctrl = s.ctrl := by rw [State.enqueue_eq]
@[simp] theorem State.enqueue_cyclesPerFrame (w : Half) : (s.enqueue w).cyclesPerFrame = s.cyclesPerFrame := by rw [State.enqueue_eq]
@[simp] theorem State.enqueue_frameDelay (w : Half) : (s.enqueue w).frameDelay = s.frameDelay := by rw [State.enqueue_eq]
@[simp] theorem State.enqueue_fgColor (w : Half) : (s.enqueue w).fgColor = s.fgColor := by rw [State.enqueue_eq]
@[simp] theorem State.enqueue_bgColor (w : Half) : (s.enqueue w).bgColor = s.bgColor := by rw [State.enqueue_eq]
@[simp] theorem State.enqueue_cursorColor (w : Half) : (s.enqueue w).cursorColor = s.cursorColor := by rw [State.enqueue_eq]
@[simp] theorem State.enqueue_clock (w : Half) : (s.enqueue w).clock = s.clock := by rw [State.enqueue_eq]
@[simp] theorem State.enqueue_kbd (w : Half) : (s.enqueue w).kbd = s.kbd := by rw [State.enqueue_eq]
@[simp] theorem State.enqueue_mouse (w : Half) : (s.enqueue w).mouse = s.mouse := by rw [State.enqueue_eq]
@[simp] theorem State.enqueue_screen (w : Half) : (s.enqueue w).screen = s.screen := by rw [State.enqueue_eq]
@[simp] theorem State.enqueue_display (w : Half) : (s.enqueue w).display = s.display := by rw [State.enqueue_eq]
@[simp] theorem State.enqueue_schedule (w : Half) : (s.enqueue w).schedule = s.schedule := by rw [State.enqueue_eq]

@[simp] theorem State.enqueueAll_nil : s.enqueueAll [] = s := rfl
@[simp] theorem State.enqueueAll_cons (w : Half) (ws : List Half) :
    s.enqueueAll (w :: ws) = (s.enqueue w).enqueueAll ws := rfl

@[simp] theorem State.enqueueAll_cfg (ws : List Half) : (s.enqueueAll ws).cfg = s.cfg := by
  induction ws generalizing s with
  | nil => rfl
  | cons w ws ih => simp [ih]
@[simp] theorem State.enqueueAll_host (ws : List Half) : (s.enqueueAll ws).host = s.host := by
  induction ws generalizing s with
  | nil => rfl
  | cons w ws ih => simp [ih]
@[simp] theorem State.enqueueAll_peer (ws : List Half) : (s.enqueueAll ws).peer = s.peer := by
  induction ws generalizing s with
  | nil => rfl
  | cons w ws ih => simp [ih]
@[simp] theorem State.enqueueAll_lastTick (ws : List Half) : (s.enqueueAll ws).lastTick = s.lastTick := by
  induction ws generalizing s with
  | nil => rfl
  | cons w ws ih => simp [ih]
@[simp] theorem State.enqueueAll_tsValid (ws : List Half) : (s.enqueueAll ws).tsValid = s.tsValid := by
  induction ws generalizing s with
  | nil => rfl
  | cons w ws ih => simp [ih]
@[simp] theorem State.enqueueAll_evtCount (ws : List Half) : (s.enqueueAll ws).evtCount = s.evtCount := by
  induction ws generalizing s with
  | nil => rfl
  | cons w ws ih => simp [ih]
@[simp] theorem State.enqueueAll_decPhase (ws : List Half) : (s.enqueueAll ws).decPhase = s.decPhase := by
  induction ws generalizing s with
  | nil => rfl
  | cons w ws ih => simp [ih]
@[simp] theorem State.enqueueAll_decHi (ws : List Half) : (s.enqueueAll ws).decHi = s.decHi := by
  induction ws generalizing s with
  | nil => rfl
  | cons w ws ih => simp [ih]
@[simp] theorem State.enqueueAll_decXy (ws : List Half) : (s.enqueueAll ws).decXy = s.decXy := by
  induction ws generalizing s with
  | nil => rfl
  | cons w ws ih => simp [ih]
@[simp] theorem State.enqueueAll_decErr (ws : List Half) : (s.enqueueAll ws).decErr = s.decErr := by
  induction ws generalizing s with
  | nil => rfl
  | cons w ws ih => simp [ih]
@[simp] theorem State.enqueueAll_modState (ws : List Half) : (s.enqueueAll ws).modState = s.modState := by
  induction ws generalizing s with
  | nil => rfl
  | cons w ws ih => simp [ih]
@[simp] theorem State.enqueueAll_caps (ws : List Half) : (s.enqueueAll ws).caps = s.caps := by
  induction ws generalizing s with
  | nil => rfl
  | cons w ws ih => simp [ih]
@[simp] theorem State.enqueueAll_btn0 (ws : List Half) : (s.enqueueAll ws).btn0 = s.btn0 := by
  induction ws generalizing s with
  | nil => rfl
  | cons w ws ih => simp [ih]
@[simp] theorem State.enqueueAll_btn1 (ws : List Half) : (s.enqueueAll ws).btn1 = s.btn1 := by
  induction ws generalizing s with
  | nil => rfl
  | cons w ws ih => simp [ih]
@[simp] theorem State.enqueueAll_btn2 (ws : List Half) : (s.enqueueAll ws).btn2 = s.btn2 := by
  induction ws generalizing s with
  | nil => rfl
  | cons w ws ih => simp [ih]
@[simp] theorem State.enqueueAll_mposValid (ws : List Half) : (s.enqueueAll ws).mposValid = s.mposValid := by
  induction ws generalizing s with
  | nil => rfl
  | cons w ws ih => simp [ih]
@[simp] theorem State.enqueueAll_lastMx (ws : List Half) : (s.enqueueAll ws).lastMx = s.lastMx := by
  induction ws generalizing s with
  | nil => rfl
  | cons w ws ih => simp [ih]
@[simp] theorem State.enqueueAll_lastMy (ws : List Half) : (s.enqueueAll ws).lastMy = s.lastMy := by
  induction ws generalizing s with
  | nil => rfl
  | cons w ws ih => simp [ih]
@[simp] theorem State.enqueueAll_curNewX (ws : List Half) : (s.enqueueAll ws).curNewX = s.curNewX := by
  induction ws generalizing s with
  | nil => rfl
  | cons w ws ih => simp [ih]
@[simp] theorem State.enqueueAll_curNewY (ws : List Half) : (s.enqueueAll ws).curNewY = s.curNewY := by
  induction ws generalizing s with
  | nil => rfl
  | cons w ws ih => simp [ih]
@[simp] theorem State.enqueueAll_qHead (ws : List Half) : (s.enqueueAll ws).qHead = s.qHead := by
  induction ws generalizing s with
  | nil => rfl
  | cons w ws ih => simp [ih]
@[simp] theorem State.enqueueAll_qOvf (ws : List Half) : (s.enqueueAll ws).qOvf = s.qOvf := by
  induction ws generalizing s with
  | nil => rfl
  | cons w ws ih => simp [ih]
@[simp] theorem State.enqueueAll_inSig (ws : List Half) : (s.enqueueAll ws).inSig = s.inSig := by
  induction ws generalizing s with
  | nil => rfl
  | cons w ws ih => simp [ih]
@[simp] theorem State.enqueueAll_drX (ws : List Half) : (s.enqueueAll ws).drX = s.drX := by
  induction ws generalizing s with
  | nil => rfl
  | cons w ws ih => simp [ih]
@[simp] theorem State.enqueueAll_drY (ws : List Half) : (s.enqueueAll ws).drY = s.drY := by
  induction ws generalizing s with
  | nil => rfl
  | cons w ws ih => simp [ih]
@[simp] theorem State.enqueueAll_drW (ws : List Half) : (s.enqueueAll ws).drW = s.drW := by
  induction ws generalizing s with
  | nil => rfl
  | cons w ws ih => simp [ih]
@[simp] theorem State.enqueueAll_drH (ws : List Half) : (s.enqueueAll ws).drH = s.drH := by
  induction ws generalizing s with
  | nil => rfl
  | cons w ws ih => simp [ih]
@[simp] theorem State.enqueueAll_curPrevX (ws : List Half) : (s.enqueueAll ws).curPrevX = s.curPrevX := by
  induction ws generalizing s with
  | nil => rfl
  | cons w ws ih => simp [ih]
@[simp] theorem State.enqueueAll_curPrevY (ws : List Half) : (s.enqueueAll ws).curPrevY = s.curPrevY := by
  induction ws generalizing s with
  | nil => rfl
  | cons w ws ih => simp [ih]
@[simp] theorem State.enqueueAll_offX (ws : List Half) : (s.enqueueAll ws).offX = s.offX := by
  induction ws generalizing s with
  | nil => rfl
  | cons w ws ih => simp [ih]
@[simp] theorem State.enqueueAll_offY (ws : List Half) : (s.enqueueAll ws).offY = s.offY := by
  induction ws generalizing s with
  | nil => rfl
  | cons w ws ih => simp [ih]
@[simp] theorem State.enqueueAll_swPending (ws : List Half) : (s.enqueueAll ws).swPending = s.swPending := by
  induction ws generalizing s with
  | nil => rfl
  | cons w ws ih => simp [ih]
@[simp] theorem State.enqueueAll_swSignal (ws : List Half) : (s.enqueueAll ws).swSignal = s.swSignal := by
  induction ws generalizing s with
  | nil => rfl
  | cons w ws ih => simp [ih]
@[simp] theorem State.enqueueAll_swTick (ws : List Half) : (s.enqueueAll ws).swTick = s.swTick := by
  induction ws generalizing s with
  | nil => rfl
  | cons w ws ih => simp [ih]
@[simp] theorem State.enqueueAll_seqPhase (ws : List Half) : (s.enqueueAll ws).seqPhase = s.seqPhase := by
  induction ws generalizing s with
  | nil => rfl
  | cons w ws ih => simp [ih]
@[simp] theorem State.enqueueAll_termFlag (ws : List Half) : (s.enqueueAll ws).termFlag = s.termFlag := by
  induction ws generalizing s with
  | nil => rfl
  | cons w ws ih => simp [ih]
@[simp] theorem State.enqueueAll_faultCode (ws : List Half) : (s.enqueueAll ws).faultCode = s.faultCode := by
  induction ws generalizing s with
  | nil => rfl
  | cons w ws ih => simp [ih]
@[simp] theorem State.enqueueAll_delayStart (ws : List Half) : (s.enqueueAll ws).delayStart = s.delayStart := by
  induction ws generalizing s with
  | nil => rfl
  | cons w ws ih => simp [ih]
@[simp] theorem State.enqueueAll_ctrl (ws : List Half) : (s.enqueueAll ws).ctrl = s.ctrl := by
  induction ws generalizing s with
  | nil => rfl
  | cons w ws ih => simp [ih]
@[simp] theorem State.enqueueAll_cyclesPerFrame (ws : List Half) : (s.enqueueAll ws).cyclesPerFrame = s.cyclesPerFrame := by
  induction ws generalizing s with
  | nil => rfl
  | cons w ws ih => simp [ih]
@[simp] theorem State.enqueueAll_frameDelay (ws : List Half) : (s.enqueueAll ws).frameDelay = s.frameDelay := by
  induction ws generalizing s with
  | nil => rfl
  | cons w ws ih => simp [ih]
@[simp] theorem State.enqueueAll_fgColor (ws : List Half) : (s.enqueueAll ws).fgColor = s.fgColor := by
  induction ws generalizing s with
  | nil => rfl
  | cons w ws ih => simp [ih]
@[simp] theorem State.enqueueAll_bgColor (ws : List Half) : (s.enqueueAll ws).bgColor = s.bgColor := by
  induction ws generalizing s with
  | nil => rfl
  | cons w ws ih => simp [ih]
@[simp] theorem State.enqueueAll_cursorColor (ws : List Half) : (s.enqueueAll ws).cursorColor = s.cursorColor := by
  induction ws generalizing s with
  | nil => rfl
  | cons w ws ih => simp [ih]
@[simp] theorem State.enqueueAll_clock (ws : List Half) : (s.enqueueAll ws).clock = s.clock := by
  induction ws generalizing s with
  | nil => rfl
  | cons w ws ih => simp [ih]
@[simp] theorem State.enqueueAll_kbd (ws : List Half) : (s.enqueueAll ws).kbd = s.kbd := by
  induction ws generalizing s with
  | nil => rfl
  | cons w ws ih => simp [ih]
@[simp] theorem State.enqueueAll_mouse (ws : List Half) : (s.enqueueAll ws).mouse = s.mouse := by
  induction ws generalizing s with
  | nil => rfl
  | cons w ws ih => simp [ih]
@[simp] theorem State.enqueueAll_screen (ws : List Half) : (s.enqueueAll ws).screen = s.screen := by
  induction ws generalizing s with
  | nil => rfl
  | cons w ws ih => simp [ih]
@[simp] theorem State.enqueueAll_display (ws : List Half) : (s.enqueueAll ws).display = s.display := by
  induction ws generalizing s with
  | nil => rfl
  | cons w ws ih => simp [ih]
@[simp] theorem State.enqueueAll_schedule (ws : List Half) : (s.enqueueAll ws).schedule = s.schedule := by
  induction ws generalizing s with
  | nil => rfl
  | cons w ws ih => simp [ih]
@[simp] theorem State.enqueueAll_qCount (ws : List Half) : (s.enqueueAll ws).qCount = s.qCount + ws.length := by
  induction ws generalizing s with
  | nil => rfl
  | cons w ws ih => simp [ih]; omega

end Sys2Proof.Machine
end

