-- ==== Sys2Proof/Laws/Ops.lean ====
section
/-! SUPPORT. One lemma per shared operation, saying once everything it can do: issuing a command, EmitGroup,
Enqueue and Dequeue, the keyboard sub-steps. -/

namespace Sys2Proof.Machine

/-- Where the phase accepts the class, a command is its rule's result. -/
theorem issue_of_accepts {c : CmdClass} {s : State} (rule : State → Result) (h : s.seqPhase.accepts c = true) :
    issue c s rule = complete s (rule s) := by
  unfold issue
  cases hp : s.seqPhase <;> simp_all [Phase.accepts]

/-- A command always answers a next state. -/
theorem issue_next (c : CmdClass) (s : State) (rule : State → Result) : ∃ t, issue c s rule = .next t := by
  have hc : ∀ r, ∃ t, complete s r = .next t := fun r => by cases r <;> exact ⟨_, rfl⟩
  unfold issue
  cases s.seqPhase <;> first | exact hc _ | exact ⟨_, rfl⟩ | (dsimp only; split <;> first | exact hc _ | exact ⟨_, rfl⟩)

/-- What issuing a command can do: its rule's state, the fault its rule raises, ILLEGAL_CMD for a class H command
in RUN, or nothing where the phase lets it wait or ignores it. -/
theorem issue_cases {c : CmdClass} {s t : State} {rule : State → Result} (h : issue c s rule = .next t) :
    (s.seqPhase.accepts c = true ∧ rule s = .ok t)
    ∨ (∃ e, s.seqPhase.accepts c = true ∧ rule s = .error e ∧ t = s.takeFault e)
    ∨ (s.seqPhase = .run ∧ c = .H ∧ t = s.takeFault .illegalCmd)
    ∨ (s.seqPhase.accepts c = false ∧ s.seqPhase ≠ .run ∧ t = s) := by
  by_cases ha : s.seqPhase.accepts c = true
  · rw [issue_of_accepts rule ha] at h
    cases hr : rule s with
    | ok u =>
      rw [hr] at h
      simp only [complete, Host.Outcome.next.injEq] at h
      exact .inl ⟨ha, h ▸ rfl⟩
    | error e =>
      rw [hr] at h
      simp only [complete, Host.Outcome.next.injEq] at h
      exact .inr (.inl ⟨e, ha, rfl, h.symm⟩)
  · right; right
    unfold issue at h
    cases hp : s.seqPhase <;> simp_all [Phase.accepts]

/-- What EmitGroup can do (R140, R141). -/
theorem emitGroup_cases {events : List Event} {s : State} {r : Result} (h : emitGroup events s = r) :
    (events = [] ∧ r = .ok s)
    ∨ (events ≠ [] ∧ s.inSig = 0 ∧ r = .error .noInputSignal)
    ∨ (events ≠ [] ∧ s.inSig ≠ 0 ∧ events.any Event.outOfRange = true ∧ r = .error .paramRange)
    ∨ (events ≠ [] ∧ s.inSig ≠ 0 ∧ events.any Event.outOfRange = false
        ∧ s.cfg.qdepth < s.qCount + (s.frameEvents events).words.length
        ∧ r = .ok { s with qOvf := true, clock := (s.frameEvents events).clock })
    ∨ (events ≠ [] ∧ s.inSig ≠ 0 ∧ events.any Event.outOfRange = false
        ∧ s.qCount + (s.frameEvents events).words.length ≤ s.cfg.qdepth
        ∧ r = .ok { s.enqueueAll (s.frameEvents events).words with
            lastTick := (s.frameEvents events).lastTick
            tsValid := (s.frameEvents events).tsValid
            evtCount := (s.frameEvents events).evtCount
            clock := (s.frameEvents events).clock }) := by
  unfold emitGroup at h
  split at h
  · exact .inl ⟨‹_›, h.symm⟩
  · split at h
    · exact .inr (.inl ⟨‹_›, ‹_›, h.symm⟩)
    · split at h
      · exact .inr (.inr (.inl ⟨‹_›, ‹_›, ‹_›, h.symm⟩))
      · rename_i h1 h2 h3
        rw [Bool.not_eq_true] at h3
        dsimp only at h
        split at h
        · exact .inr (.inr (.inr (.inl ⟨h1, h2, h3, ‹_›, h.symm⟩)))
        · exact .inr (.inr (.inr (.inr ⟨h1, h2, h3, by omega, h.symm⟩)))

/-- EmitGroup that does not fault leaves everything but the codec, the queue, the clock and the trace. -/
theorem emitGroup_frame {events : List Event} {s t : State} (h : emitGroup events s = .ok t) :
    t = { s with
      lastTick := t.lastTick, tsValid := t.tsValid, evtCount := t.evtCount, clock := t.clock
      q := t.q, qCount := t.qCount, qOvf := t.qOvf, trace := t.trace } := by
  rcases emitGroup_cases h with ⟨_, h⟩ | ⟨_, _, h⟩ | ⟨_, _, _, h⟩ | ⟨_, _, _, _, h⟩ | ⟨_, _, _, _, h⟩
  · cases h; rfl
  · cases h
  · cases h
  · cases h; rfl
  · rw [Except.ok.injEq] at h
    subst h
    rw [State.mk.injEq]
    simp

/-- EmitGroup that passes its fault checks: the group is dropped or queued, whole (R141). -/
theorem emitGroup_of_checks {events : List Event} {s : State} (hn : events ≠ []) (hs : s.inSig ≠ 0)
    (hr : events.any Event.outOfRange = false) :
    emitGroup events s =
      if s.cfg.qdepth < s.qCount + (s.frameEvents events).words.length then
        .ok { s with qOvf := true, clock := (s.frameEvents events).clock }
      else .ok { s.enqueueAll (s.frameEvents events).words with
        lastTick := (s.frameEvents events).lastTick
        tsValid := (s.frameEvents events).tsValid
        evtCount := (s.frameEvents events).evtCount
        clock := (s.frameEvents events).clock } := by
  simp only [emitGroup, hn, hs, hr, if_false, Bool.false_eq_true]

/-- Enqueuing two lists of words one after the other (R231). -/
theorem enqueueAll_append (s : State) (ws vs : List Half) :
    s.enqueueAll (ws ++ vs) = (s.enqueueAll ws).enqueueAll vs := by
  induction ws generalizing s with
  | nil => rfl
  | cons w ws ih => exact ih (s.enqueue w)

/-- Enqueue neither reads nor writes the codec's registers and the clock. -/
theorem enqueueAll_codec (s : State) (ws : List Half) (lt : Word) (tv : Bool) (ec : Word) (c : Clock) :
    State.enqueueAll { s with lastTick := lt, tsValid := tv, evtCount := ec, clock := c } ws =
      { s.enqueueAll ws with lastTick := lt, tsValid := tv, evtCount := ec, clock := c } := by
  induction ws generalizing s with
  | nil => rfl
  | cons w ws ih =>
    simp only [State.enqueueAll_cons]
    rw [← ih (s.enqueue w)]
    congr 1
    simp only [State.enqueue_eq]

/-- The words framed before an event stay in front, whatever they are (R140). -/
theorem foldl_add_words (events : List Event) (f : Framing) :
    events.foldl Framing.add f =
      { events.foldl Framing.add { f with words := [] } with
        words := f.words ++ (events.foldl Framing.add { f with words := [] }).words } := by
  induction events generalizing f with
  | nil => simp
  | cons e es ih =>
    rw [List.foldl_cons, List.foldl_cons, ih (f.add e), ih (Framing.add { f with words := [] } e)]
    simp [Framing.add]

/-- Framing a list of events goes on where the events before it left the codec (R140). -/
theorem frameEvents_append (s t : State) (as bs : List Event)
    (hl : t.lastTick = (s.frameEvents as).lastTick) (hv : t.tsValid = (s.frameEvents as).tsValid)
    (he : t.evtCount = (s.frameEvents as).evtCount) (hc : t.clock = (s.frameEvents as).clock) :
    s.frameEvents (as ++ bs) =
      { t.frameEvents bs with words := (s.frameEvents as).words ++ (t.frameEvents bs).words } := by
  have h : s.frameEvents (as ++ bs) = bs.foldl Framing.add (s.frameEvents as) := List.foldl_append
  rw [h, foldl_add_words]
  simp only [State.frameEvents] at hl hv he hc ⊢
  simp only [hl, hv, he, hc]

/-- Two EmitGroup calls one after the other are one call with all their events, where the queue has room for all the
words (R140; the two calls of 42_mouse.md R214). -/
theorem emitGroup_append {as bs : List Event} {s t : State} (h : emitGroup as s = .ok t)
    (room : s.qCount + (s.frameEvents (as ++ bs)).words.length ≤ s.cfg.qdepth) :
    emitGroup bs t = emitGroup (as ++ bs) s := by
  by_cases hb : bs = []
  · subst hb
    rw [List.append_nil, h]
    rfl
  have hw : (s.frameEvents as).words.length ≤ (s.frameEvents (as ++ bs)).words.length := by
    rw [frameEvents_append s { s with
      lastTick := (s.frameEvents as).lastTick, tsValid := (s.frameEvents as).tsValid
      evtCount := (s.frameEvents as).evtCount, clock := (s.frameEvents as).clock } as bs rfl rfl rfl rfl]
    simp
  rcases emitGroup_cases h with ⟨ha, h⟩ | ⟨_, _, h⟩ | ⟨_, _, _, h⟩ | ⟨_, _, _, hd, _⟩ | ⟨ha, hs, hr, _, h⟩
  · cases h
    rw [ha, List.nil_append]
  · cases h
  · cases h
  · omega
  · rw [Except.ok.injEq] at h
    have hf := frameEvents_append s t as bs (by rw [h]) (by rw [h]) (by rw [h]) (by rw [h])
    have htq : t.qCount = s.qCount + (s.frameEvents as).words.length := by rw [h]; simp
    have htd : t.cfg = s.cfg := by rw [h]; simp
    have hts : t.inSig ≠ 0 := by rw [h]; simpa using hs
    have hne : as ++ bs ≠ [] := by simp [hb]
    by_cases hrb : bs.any Event.outOfRange = true
    · simp only [emitGroup, hb, hrb, hne, List.any_append, Bool.or_true, if_false, if_true]
      rw [if_neg hts, if_neg hs]
    rw [Bool.not_eq_true] at hrb
    rw [hf] at room
    simp only [List.length_append] at room
    rw [emitGroup_of_checks hb hts hrb, emitGroup_of_checks hne hs (by simp [hr, hrb]), if_neg, if_neg]
    · rw [hf]
      dsimp only
      rw [enqueueAll_append, h, enqueueAll_codec]
    · rw [hf]
      simp only [List.length_append]
      omega
    · rw [htd, htq]
      omega

/-- Enqueue neither reads nor writes the button registers. -/
theorem enqueueAll_sampleButtons (s : State) (m : Word) (ws : List Half) :
    (s.sampleButtons m).enqueueAll ws = (s.enqueueAll ws).sampleButtons m := by
  induction ws generalizing s with
  | nil => rfl
  | cons w ws ih =>
    rw [State.enqueueAll_cons, State.enqueueAll_cons, ← ih, State.enqueue_eq, State.enqueue_eq]
    rfl

/-- EmitGroup neither reads nor writes the button registers. -/
theorem emitGroup_sampleButtons (events : List Event) (s : State) (m : Word) :
    emitGroup events (s.sampleButtons m) = (emitGroup events s).map (·.sampleButtons m) := by
  unfold emitGroup
  show (if events = [] then _ else if s.inSig = 0 then _ else if events.any Event.outOfRange then _
    else if s.cfg.qdepth < s.qCount + (s.frameEvents events).words.length then _ else _) = _
  split
  · rfl
  · split
    · rfl
    · split
      · rfl
      · dsimp only
        split
        · rfl
        · rw [show (s.sampleButtons m).frameEvents events = s.frameEvents events from rfl, enqueueAll_sampleButtons]
          rfl

/-- MOUSE_POLL is MOUSE_MOTION and then MOUSE_BUTTONS, where the queue has room for all its words (R214). -/
theorem mousePoll_eq_calls {x y m : Word} {s t : State} (h : mouseMotion x y s = .ok t)
    (room : s.qCount + (s.frameEvents (s.motionEvents x y ++ s.buttonEvents m)).words.length ≤ s.cfg.qdepth) :
    mousePoll x y m s = mouseButtons m t := by
  have hf := emitGroup_frame h
  have hp : s.samplePosition x y = { s with
      mposValid := (s.samplePosition x y).mposValid, lastMx := (s.samplePosition x y).lastMx
      lastMy := (s.samplePosition x y).lastMy, curNewX := (s.samplePosition x y).curNewX
      curNewY := (s.samplePosition x y).curNewY } := by
    unfold State.samplePosition
    split <;> rfl
  have hb : t.buttonEvents m = s.buttonEvents m := by
    rw [hf, hp]
    rfl
  have ht : emitGroup (s.motionEvents x y) ((s.samplePosition x y).sampleButtons m) = .ok (t.sampleButtons m) := by
    rw [emitGroup_sampleButtons, show emitGroup (s.motionEvents x y) (s.samplePosition x y) = .ok t from h]
    rfl
  unfold mouseButtons mousePoll
  rw [hb, emitGroup_append ht]
  rw [hp]
  exact room

/-- An enqueued word goes to a free slot: the storage keeps its canonical form, the slot holds the word, and every
other index of storage is untouched (R231). -/
theorem enqueue_storage {s : State} (w : Half) (hq : s.q.wf = true) :
    (s.enqueue w).q.wf = true
    ∧ (s.enqueue w).q.read ((s.qHead + s.qCount) % s.cfg.qdepth) = w
    ∧ ∀ a, a ≠ (s.qHead + s.qCount) % s.cfg.qdepth → (s.enqueue w).q.read a = s.q.read a := by
  rw [State.enqueue_q]
  exact ⟨Cells.wf_write _ hq, Cells.read_write_same _ hq, fun a h => Cells.read_write_other _ hq h⟩

/-- Two held indices of the circular buffer are the same slot only when they are the same index (R45). -/
theorem slot_injective {head depth i j : Nat} (hi : i < depth) (hj : j < depth)
    (h : (head + i) % depth = (head + j) % depth) : i = j := by
  have h' : i % depth = j % depth := Nat.ModEq.add_left_cancel' head h
  rwa [Nat.mod_eq_of_lt hi, Nat.mod_eq_of_lt hj] at h'

/-- Enqueue appends its word to the held words (R231, R45). -/
theorem heldWords_enqueue {s : State} (w : Half) (hq : s.q.wf = true) (hroom : s.qCount < s.cfg.qdepth) :
    (s.enqueue w).heldWords = s.heldWords ++ [w] := by
  obtain ⟨_, hsame, hother⟩ := enqueue_storage w hq
  simp only [State.heldWords, State.enqueue_qCount, State.enqueue_qHead, State.enqueue_cfg, List.range_succ,
    List.map_append, List.map_cons, List.map_nil, hsame]
  congr 1
  apply List.map_congr_left
  intro k hk
  rw [List.mem_range] at hk
  exact hother _ fun h => absurd (slot_injective (by omega) hroom h) (by omega)

/-- Q_POP's Dequeue removes the oldest held word and keeps the rest in order (R235, R45). -/
theorem heldWords_dequeue {s : State} (hpos : 0 < s.qCount) :
    s.heldWords = s.q.read (s.qHead % s.cfg.qdepth) :: s.dequeue.heldWords := by
  obtain ⟨n, hn⟩ : ∃ n, s.qCount = n + 1 := ⟨s.qCount - 1, by omega⟩
  simp only [State.heldWords, hn, State.dequeue_qCount, State.dequeue_qHead, State.dequeue_cfg, State.dequeue_q,
    Nat.add_sub_cancel, List.range_succ_eq_map, List.map_cons, List.map_map, Nat.add_zero]
  congr 1
  apply List.map_congr_left
  intro k _
  simp only [Function.comp_apply, Nat.succ_eq_add_one]
  rw [Nat.mod_add_mod]
  congr 2
  omega

/-- The number of held words is Q_COUNT. -/
@[simp] theorem heldWords_length (s : State) : s.heldWords.length = s.qCount := by
  simp [State.heldWords]

/-- Enqueued words keep the storage canonical. -/
theorem enqueueAll_wf {s : State} (ws : List Half) (hq : s.q.wf = true) : (s.enqueueAll ws).q.wf = true := by
  induction ws generalizing s with
  | nil => exact hq
  | cons w ws ih => exact ih (enqueue_storage w hq).1

/-- Every event EmitGroup appends to the trace is an INPUT_READY signal with id IN_SIG (R232). -/
theorem enqueueAll_trace (s : State) (ws : List Half) :
    ∃ n, (s.enqueueAll ws).trace = s.trace ++ List.replicate n (.signal .inputReady s.inSig) := by
  induction ws generalizing s with
  | nil => exact ⟨0, by simp⟩
  | cons w ws ih =>
    obtain ⟨n, hn⟩ := ih (s.enqueue w)
    have he : (s.enqueue w).trace
        = s.trace ++ if wakeOnEnqueue s.cfg.wakePolicy (s.qCount == 0) then [.signal .inputReady s.inSig] else [] := by
      rw [State.enqueue_eq]
    rw [State.enqueueAll_cons, hn, he, State.enqueue_inSig]
    split
    · exact ⟨n + 1, by simp [List.replicate_succ]⟩
    · exact ⟨n, by simp⟩

/-- The tracked rectangle is empty when its width or its height is 0 (44_dirty_rect.md R250). -/
theorem dirty_isEmpty_iff (s : State) : s.dirty.isEmpty = true ↔ s.drW = 0 ∨ s.drH = 0 := by
  have h : ∀ v : Half, v.toNat = 0 ↔ v = 0 := fun v => by rw [← BitVec.toNat_inj]; rfl
  simp [Rect.isEmpty, State.dirty, h]

/-- What the keyboard sub-steps can do: all stand, or the first that faults stops them. -/
theorem keySubSteps_induct {P : State → Prop} (hstep : ∀ k s t, P s → keySubStep k s = .ok t → P t) :
    ∀ ks s, P s → P (keySubSteps ks s).1 := by
  intro ks
  induction ks with
  | nil => intro s hs; exact hs
  | cons k ks ih =>
    intro s hs
    simp only [keySubSteps]
    cases hk : keySubStep k s with
    | ok t => exact ih t (hstep k s t hs hk)
    | error c => exact hs

end Sys2Proof.Machine
end

