-- ==== Sys2Proof/Laws/Codec.lean ====
section
/-! SUPPORT. The words of the codec as numbers. -/

namespace Sys2Proof.Machine

/-- A packed word's value, for fields in range (40_event_codec.md R131). -/
theorem pack_eq_ofNat {t p : Nat} (_ht : t ≤ 15) (_hp : p ≤ 4095) : pack t p = BitVec.ofNat 16 (2 ^ 12 * t + p) := by
  apply BitVec.eq_of_toNat_eq
  unfold pack
  rw [packFields_toNat]
  simp only [BitVec.toNat_ofNat]
  omega

/-- A 32-bit difference on naturals: the wrapped delta of R135. -/
theorem word_sub_toNat (a b : Word) : (a - b).toNat = (2 ^ 32 + a.toNat - b.toNat) % 2 ^ 32 := by
  rw [BitVec.toNat_sub]
  omega

/-- The absolute time on naturals (R134). -/
theorem absTime_toNat (w : Word) : (absTime w).toNat = (w.toNat + 2177452800) % 2 ^ 32 := by
  unfold absTime
  rw [BitVec.toNat_add, BitVec.toNat_ofNat, Nat.add_mod_mod]

/-- The three words of an absolute frame as numbers (R133). -/
theorem absFrame_eq (a : Word) :
    absFrame a = [0x5000, BitVec.ofNat 16 (a.toNat / 2 ^ 16), BitVec.ofNat 16 (a.toNat % 2 ^ 16)] := by
  have h1 : a.extractLsb' 16 16 = BitVec.ofNat 16 (a.toNat / 2 ^ 16) := by
    apply BitVec.eq_of_toNat_eq
    simp [BitVec.extractLsb'_toNat, Nat.shiftRight_eq_div_pow]
  have h2 : a.extractLsb' 0 16 = BitVec.ofNat 16 (a.toNat % 2 ^ 16) := by
    apply BitVec.eq_of_toNat_eq
    simp [BitVec.extractLsb'_toNat]
  unfold absFrame
  rw [h1, h2]
  rfl

/-- What a timestamp frame can be (R133, R135, R136): the zero delta before any other frame, a short delta, or an
absolute frame with one wall-clock draw. -/
theorem tsFrame_cases (now lt : Word) (tv : Bool) (c : Clock) :
    (tv = false ∧ tsFrame now lt tv c = ([0], c))
    ∨ (tv = true ∧ (now - lt).toNat ≤ 4095 ∧ tsFrame now lt tv c = ([BitVec.ofNat 16 (now - lt).toNat], c))
    ∨ (tv = true ∧ 4095 < (now - lt).toNat
        ∧ tsFrame now lt tv c = (absFrame (absTime c.sampleWall.1), c.sampleWall.2)) := by
  cases tv with
  | false => exact .inl ⟨rfl, rfl⟩
  | true =>
    right
    by_cases h : (now - lt).toNat ≤ 4095
    · refine .inl ⟨rfl, h, ?_⟩
      unfold tsFrame
      rw [if_neg (by simp), if_pos h, pack_eq_ofNat (Nat.zero_le _) h, Nat.mul_zero, Nat.zero_add]
    · refine .inr ⟨rfl, by omega, ?_⟩
      unfold tsFrame
      rw [if_neg (by simp), if_neg h]

end Sys2Proof.Machine
end

