-- ==== Sys2Proof/Laws/Context.lean ====
section
/-! SUPPORT. The rules of the codec, the keyboard, the mouse, the blitter and the scheduled wake neither read nor write the ports, the phase, the fault
code, TERM_FLAG and the keyboard port: one lemma per rule, through a change of all of those together. -/

namespace Sys2Proof.Machine

/-- The fields that none of these rules reads or writes. -/
structure Context where
  host : Port
  peer : Port
  seqPhase : Phase
  faultCode : Byte
  termFlag : Bool
  kbd : List KeyReport
  schedule : List Move
  deriving DecidableEq, Repr

/-- `s` with these fields from `c`. -/
def State.inContext (s : State) (c : Context) : State :=
  { s with
    host := c.host, peer := c.peer, seqPhase := c.seqPhase, faultCode := c.faultCode, termFlag := c.termFlag
    kbd := c.kbd, schedule := c.schedule }

/-- The fields themselves. -/
def State.context (s : State) : Context :=
  ⟨s.host, s.peer, s.seqPhase, s.faultCode, s.termFlag, s.kbd, s.schedule⟩

@[simp] theorem State.inContext_context (s : State) : s.inContext s.context = s := rfl
@[simp] theorem State.inContext_inContext (s : State) (c d : Context) : (s.inContext c).inContext d = s.inContext d :=
  rfl
@[simp] theorem State.context_inContext (s : State) (c : Context) : (s.inContext c).context = c := rfl

/-- A result, moved to another context. -/
def Result.inContext (c : Context) (r : Result) : Result := r.map (·.inContext c)

@[simp] theorem Result.inContext_ok (c : Context) (s : State) : Result.inContext c (.ok s) = .ok (s.inContext c) := rfl
@[simp] theorem Result.inContext_error (c : Context) (e : FaultCode) : Result.inContext c (.error e) = .error e := rfl

theorem enqueueAll_inContext (s : State) (c : Context) (ws : List Half) :
    (s.inContext c).enqueueAll ws = (s.enqueueAll ws).inContext c := by
  induction ws generalizing s with
  | nil => rfl
  | cons w ws ih =>
    have : (s.inContext c).enqueue w = (s.enqueue w).inContext c := by
      unfold State.enqueue
      show (if wakeOnEnqueue s.cfg.wakePolicy (s.qCount == 0) then _ else _) = _
      dsimp only
      split <;> rfl
    simp only [State.enqueueAll, this, ih]

theorem emitGroup_inContext (events : List Event) (s : State) (c : Context) :
    emitGroup events (s.inContext c) = Result.inContext c (emitGroup events s) := by
  unfold emitGroup
  show (if events = [] then _ else if s.inSig = 0 then _ else if events.any Event.outOfRange then _
    else if s.cfg.qdepth < s.qCount + (s.frameEvents events).words.length then _ else _) = _
  dsimp only
  split
  · rfl
  · split
    · rfl
    · split
      · rfl
      · split
        · rfl
        · rw [show ((s.inContext c).frameEvents events) = s.frameEvents events from rfl, enqueueAll_inContext]
          rfl

theorem keyRaw_inContext (a b : Word) (s : State) (c : Context) :
    keyRaw a b (s.inContext c) = Result.inContext c (keyRaw a b s) := by
  unfold keyRaw
  show (if s.cfg.kbdMode ≠ .raw then _ else _) = _
  dsimp only
  split
  · rfl
  · exact emitGroup_inContext _ { s with modState := _, caps := _ } c

theorem keyCooked_inContext (a b : Word) (s : State) (c : Context) :
    keyCooked a b (s.inContext c) = Result.inContext c (keyCooked a b s) := by
  unfold keyCooked
  show (if s.cfg.kbdMode ≠ .cooked then _ else if _ then _ else _) = _
  split
  · rfl
  · split
    · rfl
    · exact emitGroup_inContext _ s c

theorem keySubStep_inContext (k : KeyReport) (s : State) (c : Context) :
    keySubStep k (s.inContext c) = Result.inContext c (keySubStep k s) := by
  unfold keySubStep
  show (match s.cfg.kbdMode with | .raw => _ | .cooked => _) = _
  cases s.cfg.kbdMode
  · exact keyRaw_inContext _ _ _ _
  · exact keyCooked_inContext _ _ _ _

theorem samplePosition_inContext (x y : Word) (s : State) (c : Context) :
    (s.inContext c).samplePosition x y = (s.samplePosition x y).inContext c := by
  unfold State.samplePosition
  show (if s.motionReported x y then _ else _) = _
  split <;> rfl

theorem mouseButtons_inContext (m : Word) (s : State) (c : Context) :
    mouseButtons m (s.inContext c) = Result.inContext c (mouseButtons m s) :=
  emitGroup_inContext (s.buttonEvents m) (s.sampleButtons m) c

theorem mouseMotion_inContext (x y : Word) (s : State) (c : Context) :
    mouseMotion x y (s.inContext c) = Result.inContext c (mouseMotion x y s) := by
  unfold mouseMotion
  rw [samplePosition_inContext]
  exact emitGroup_inContext (s.motionEvents x y) (s.samplePosition x y) c

theorem mousePoll_inContext (x y m : Word) (s : State) (c : Context) :
    mousePoll x y m (s.inContext c) = Result.inContext c (mousePoll x y m s) := by
  unfold mousePoll
  rw [samplePosition_inContext]
  exact emitGroup_inContext (s.motionEvents x y ++ s.buttonEvents m) ((s.samplePosition x y).sampleButtons m) c

theorem calcOffsets_inContext (s : State) (c : Context) :
    calcOffsets (s.inContext c) = (calcOffsets s).inContext c := by
  unfold calcOffsets
  show (if s.display.handle = 0 then _ else _) = _
  split <;> rfl

theorem checkWake_inContext (s : State) (c : Context) : checkWake (s.inContext c) = (checkWake s).inContext c := by
  unfold checkWake
  show (if s.swPending then _ else _) = _
  dsimp only
  split
  · show (if s.swTick ≤ s.clock.sampleTick.1 then _ else _) = _
    split <;> rfl
  · rfl

theorem cursorUpdate_inContext (s : State) (c : Context) :
    cursorUpdate (s.inContext c) = (cursorUpdate s).inContext c := by
  unfold cursorUpdate
  show (if s.display.handle = 0 then _ else _) = _
  split <;> rfl

theorem renderPass_inContext (s : State) (c : Context) :
    renderPass (s.inContext c) = (renderPass s).inContext c := by
  unfold renderPass
  show (if s.dirty.isEmpty then _ else cursorUpdate ((blitRect s.dirty s.clearDirty).inContext c)) = _
  rw [cursorUpdate_inContext]
  split <;> rfl

/-- The sub-steps, moved to another context. -/
theorem keySubSteps_inContext (ks : List KeyReport) (s : State) (c : Context) :
    keySubSteps ks (s.inContext c) = ((keySubSteps ks s).1.inContext c, (keySubSteps ks s).2) := by
  induction ks generalizing s with
  | nil => rfl
  | cons k ks ih =>
    unfold keySubSteps
    rw [keySubStep_inContext]
    cases keySubStep k s with
    | ok t => exact ih t
    | error e => rfl

/-- EmitGroup keeps the context. -/
theorem emitGroup_context {events : List Event} {s t : State} (h : emitGroup events s = .ok t) :
    t.context = s.context := by
  have := congrArg State.context (emitGroup_frame h)
  exact this

theorem keyRaw_context {a b : Word} {s t : State} (h : keyRaw a b s = .ok t) : t.context = s.context := by
  unfold keyRaw at h
  split at h
  · cases h
  · have := emitGroup_context h
    exact this

theorem keyCooked_context {a b : Word} {s t : State} (h : keyCooked a b s = .ok t) : t.context = s.context := by
  unfold keyCooked at h
  split at h
  · cases h
  · split at h
    · cases h; rfl
    · exact emitGroup_context h

theorem keySubStep_context {k : KeyReport} {s t : State} (h : keySubStep k s = .ok t) : t.context = s.context := by
  unfold keySubStep at h
  split at h
  · exact keyRaw_context h
  · exact keyCooked_context h

theorem keySubSteps_context (ks : List KeyReport) (s : State) : (keySubSteps ks s).1.context = s.context :=
  keySubSteps_induct (P := fun t => t.context = s.context)
    (fun _ _ _ hs h => (keySubStep_context h).trans hs) ks s rfl

theorem mouseButtons_context {m : Word} {s t : State} (h : mouseButtons m s = .ok t) : t.context = s.context :=
  emitGroup_context (s := s.sampleButtons m) h

theorem samplePosition_context (x y : Word) (s : State) : (s.samplePosition x y).context = s.context := by
  unfold State.samplePosition
  split <;> rfl

theorem mouseMotion_context {x y : Word} {s t : State} (h : mouseMotion x y s = .ok t) : t.context = s.context :=
  (emitGroup_context h).trans (samplePosition_context x y s)

theorem mousePoll_context {x y m : Word} {s t : State} (h : mousePoll x y m s = .ok t) : t.context = s.context :=
  (emitGroup_context (s := (s.samplePosition x y).sampleButtons m) h).trans (samplePosition_context x y s)

end Sys2Proof.Machine
end

