-- ==== Sys2Proof/Laws/Exec.lean ====
section
/-! SUPPORT. Every instruction is one rule, issued in its class: the one lemma through which a statement about all
instructions takes exec apart. -/

namespace Sys2Proof.Machine

/-- What an event word does in phase TAG (40_event_codec.md R150). -/
def taggedEffect (w : Half) (s : State) : State :=
  match (eventType w).toNat with
  | 0 => s.token .delta ((eventParam w).setWidth 32)
  | 1 => { s with decXy := flipBit s.decXy }.token (if s.decXy then .coordY else .coordX) ((eventParam w).setWidth 32)
  | 3 => s.token .down ((eventParam w).setWidth 32)
  | 4 => s.token .up ((eventParam w).setWidth 32)
  | 5 => { s with decPhase := .hi }.token .none 0
  | _ => s.reservedToken w

/-- The rule an instruction runs where its class is accepted. -/
def ruleOf (i : Instr) (s : State) : Result :=
  match i with
  | .nop => .ok s
  | .frame => .ok { s with seqPhase := .offsets }
  | .calcOffsets => .ok (calcOffsets s)
  | .checkWake => .ok (checkWake s)
  | .csrRead => csrRead s.arg0 s
  | .csrWrite => csrWrite s.arg0 s.arg1 s
  | .emit => emit s.arg0 s.arg1 s
  | .decWord => .ok (feed (s.arg0.setWidth 16) (taggedEffect (s.arg0.setWidth 16)) s)
  | .decReset => .ok { s with decPhase := .tag, decHi := 0, decXy := false }
  | .keyRaw => keyRaw s.arg0 s.arg1 s
  | .keyCooked => keyCooked s.arg0 s.arg1 s
  | .mouseMotion => mouseMotion s.arg0 s.arg1 s
  | .mouseButtons => mouseButtons s.arg0 s
  | .mousePoll => mousePoll s.arg0 s.arg1 s.arg2 s
  | .setInputSignal => .ok { s with inSig := s.arg0 }
  | .qPop => .ok (qPop s)
  | .reportDamage => reportDamage ⟨s.arg0.toNat, s.arg1.toNat, s.arg2.toNat, s.arg3.toNat⟩ s
  | .setWake => .ok (setWake s.arg0 s.arg1 s)
  | .terminate => .ok (terminate s)
  | .drTake =>
    .ok (s.clearDirty.setRes (s.drX.setWidth 32) (s.drY.setWidth 32) (s.drW.setWidth 32) (s.drH.setWidth 32))
  | .blitRect => .ok (blitRect ⟨s.arg0.toNat, s.arg1.toNat, s.arg2.toNat, s.arg3.toNat⟩ s)
  | .cursorUpdate => .ok (cursorUpdate s)
  | .render => .ok (renderPass s)
  | .tsDelta p => .ok (feed (packFields 0 p) (fun s => s.token .delta (p.setWidth 32)) s)
  | .coord p =>
    .ok (feed (packFields 1 p)
      (fun s => { s with decXy := flipBit s.decXy }.token (if s.decXy then .coordY else .coordX) (p.setWidth 32)) s)
  | .down p => .ok (feed (packFields 3 p) (fun s => s.token .down (p.setWidth 32)) s)
  | .up p => .ok (feed (packFields 4 p) (fun s => s.token .up (p.setWidth 32)) s)
  | .tsAbs p => .ok (feed (packFields 5 p) (fun s => { s with decPhase := .hi }.token .none 0) s)
  | .reservedType2 p => .ok (feed (packFields 2 p) (·.reservedToken (packFields 2 p)) s)
  | .reservedType67 t p => .ok (feed (packFields t p) (·.reservedToken (packFields t p)) s)
  | .reservedType815 t p => .ok (feed (packFields t p) (·.reservedToken (packFields t p)) s)

/-- A packed word's effect in phase TAG, by its type. -/
theorem taggedEffect_packFields (t : BitVec 4) (p : BitVec 12) (s : State) :
    taggedEffect (packFields t p) s =
      match t.toNat with
      | 0 => s.token .delta (p.setWidth 32)
      | 1 => { s with decXy := flipBit s.decXy }.token (if s.decXy then .coordY else .coordX) (p.setWidth 32)
      | 3 => s.token .down (p.setWidth 32)
      | 4 => s.token .up (p.setWidth 32)
      | 5 => { s with decPhase := .hi }.token .none 0
      | _ => s.reservedToken (packFields t p) := by
  unfold taggedEffect
  simp only [eventType_packFields, eventParam_packFields]

/-- What DEC_WORD does with a word is what the instruction the word decodes to does (30_encoding.md R107). -/
theorem exec_decodeEventWord (w : Half) (s : State) :
    exec (decodeEventWord w) s = issue .H s fun s => .ok (feed w (taggedEffect w) s) := by
  rw [← packFields_eventType_eventParam w]
  generalize eventType w = t
  generalize eventParam w = p
  have ht : ∀ t : BitVec 4, t = 0 ∨ t = 1 ∨ t = 2 ∨ t = 3 ∨ t = 4 ∨ t = 5 ∨ t = 6 ∨ t = 7 ∨ t = 8 ∨ t = 9 ∨ t = 10
      ∨ t = 11 ∨ t = 12 ∨ t = 13 ∨ t = 14 ∨ t = 15 := by decide
  rcases ht t with h | h | h | h | h | h | h | h | h | h | h | h | h | h | h | h <;> subst h <;>
    (simp only [decodeEventWord, eventType_packFields, eventParam_packFields, funext (taggedEffect_packFields _ p)]
     rfl)

/-- DEC_WORD runs the event word in ARG0[15:0]. -/
theorem execDecWord_eq_exec (s : State) : execDecWord s = exec (decodeEventWord (s.arg0.setWidth 16)) s := by
  unfold execDecWord decodeEventWord
  dsimp only
  generalize s.arg0.setWidth 16 = w
  rw [← packFields_eventType_eventParam w]
  generalize eventType w = t
  generalize eventParam w = p
  simp only [eventType_packFields, eventParam_packFields]
  have ht : ∀ t : BitVec 4, t = 0 ∨ t = 1 ∨ t = 2 ∨ t = 3 ∨ t = 4 ∨ t = 5 ∨ t = 6 ∨ t = 7 ∨ t = 8 ∨ t = 9 ∨ t = 10
      ∨ t = 11 ∨ t = 12 ∨ t = 13 ∨ t = 14 ∨ t = 15 := by decide
  rcases ht t with h | h | h | h | h | h | h | h | h | h | h | h | h | h | h | h <;> subst h <;> rfl

/-- Every instruction is its rule, issued in its class (46_sequencer.md R312). -/
theorem exec_eq_issue (i : Instr) (s : State) : exec i s = issue i.cls s (ruleOf i) := by
  cases i
  case decWord =>
    show execDecWord s = _
    rw [execDecWord_eq_exec, exec_decodeEventWord]
    unfold issue complete ruleOf
    rfl
  all_goals rfl

end Sys2Proof.Machine
end

