-- ==== Sys2Proof/Laws/PerInstr.lean ====
section
/-! SUPPORT. Per-instruction facts about syntax: the encoding of every well-formed instruction meets its row of
spec/opcode_table.json. -/

namespace Sys2Proof.Laws.TableRow

/-- An instruction's row of spec/opcode_table.json: width in bits, match, mask. -/
def row : Instr → Nat × Nat × Nat
  | .nop => (32, 0x00000000, 0xFFFFFFFF)
  | .frame => (32, 0x00000001, 0xFFFFFFFF)
  | .calcOffsets => (32, 0x00000002, 0xFFFFFFFF)
  | .checkWake => (32, 0x00000003, 0xFFFFFFFF)
  | .csrRead => (32, 0x00000008, 0xFFFFFFFF)
  | .csrWrite => (32, 0x00000009, 0xFFFFFFFF)
  | .emit => (32, 0x00000010, 0xFFFFFFFF)
  | .decWord => (32, 0x00000011, 0xFFFFFFFF)
  | .decReset => (32, 0x00000012, 0xFFFFFFFF)
  | .keyRaw => (32, 0x00000018, 0xFFFFFFFF)
  | .keyCooked => (32, 0x00000019, 0xFFFFFFFF)
  | .mouseMotion => (32, 0x0000001C, 0xFFFFFFFF)
  | .mouseButtons => (32, 0x0000001D, 0xFFFFFFFF)
  | .mousePoll => (32, 0x0000001E, 0xFFFFFFFF)
  | .setInputSignal => (32, 0x00000020, 0xFFFFFFFF)
  | .qPop => (32, 0x00000021, 0xFFFFFFFF)
  | .reportDamage => (32, 0x00000022, 0xFFFFFFFF)
  | .setWake => (32, 0x00000023, 0xFFFFFFFF)
  | .terminate => (32, 0x00000024, 0xFFFFFFFF)
  | .drTake => (32, 0x00000030, 0xFFFFFFFF)
  | .blitRect => (32, 0x00000031, 0xFFFFFFFF)
  | .cursorUpdate => (32, 0x00000032, 0xFFFFFFFF)
  | .render => (32, 0x00000033, 0xFFFFFFFF)
  | .tsDelta _ => (16, 0x0000, 0xF000)
  | .coord _ => (16, 0x1000, 0xF000)
  | .down _ => (16, 0x3000, 0xF000)
  | .up _ => (16, 0x4000, 0xF000)
  | .tsAbs _ => (16, 0x5000, 0xF000)
  | .reservedType2 _ => (16, 0x2000, 0xF000)
  | .reservedType67 _ _ => (16, 0x6000, 0xE000)
  | .reservedType815 _ _ => (16, 0x8000, 0x8000)

/-- An encoded word meets a row: its width, and its masked bits. -/
def Meets : Encoded → Nat × Nat × Nat → Prop
  | .command cmd, (bits, m, mask) => bits = 32 ∧ cmd &&& BitVec.ofNat 32 mask = BitVec.ofNat 32 m
  | .event w, (bits, m, mask) => bits = 16 ∧ w &&& BitVec.ofNat 16 mask = BitVec.ofNat 16 m

/-- The encoding of a well-formed instruction meets its row. -/
def Statement (i : Instr) : Prop := i.wellFormed = true → Meets (encode i) (row i)

/-- The bits a mask of type bits keeps of a packed word are the type's alone. -/
theorem packFields_and_mask (t m : BitVec 4) (p : BitVec 12) :
    packFields t p &&& packFields m 0 = packFields (t &&& m) 0 := by
  unfold packFields
  apply BitVec.eq_of_getLsbD_eq
  intro i _
  simp only [BitVec.getLsbD_and, BitVec.getLsbD_append]
  split <;> simp

theorem nop : Statement .nop := fun _ => ⟨rfl, by decide⟩
theorem frame : Statement .frame := fun _ => ⟨rfl, by decide⟩
theorem calcOffsets : Statement .calcOffsets := fun _ => ⟨rfl, by decide⟩
theorem checkWake : Statement .checkWake := fun _ => ⟨rfl, by decide⟩
theorem csrRead : Statement .csrRead := fun _ => ⟨rfl, by decide⟩
theorem csrWrite : Statement .csrWrite := fun _ => ⟨rfl, by decide⟩
theorem emit : Statement .emit := fun _ => ⟨rfl, by decide⟩
theorem decWord : Statement .decWord := fun _ => ⟨rfl, by decide⟩
theorem decReset : Statement .decReset := fun _ => ⟨rfl, by decide⟩
theorem keyRaw : Statement .keyRaw := fun _ => ⟨rfl, by decide⟩
theorem keyCooked : Statement .keyCooked := fun _ => ⟨rfl, by decide⟩
theorem mouseMotion : Statement .mouseMotion := fun _ => ⟨rfl, by decide⟩
theorem mouseButtons : Statement .mouseButtons := fun _ => ⟨rfl, by decide⟩
theorem mousePoll : Statement .mousePoll := fun _ => ⟨rfl, by decide⟩
theorem setInputSignal : Statement .setInputSignal := fun _ => ⟨rfl, by decide⟩
theorem qPop : Statement .qPop := fun _ => ⟨rfl, by decide⟩
theorem reportDamage : Statement .reportDamage := fun _ => ⟨rfl, by decide⟩
theorem setWake : Statement .setWake := fun _ => ⟨rfl, by decide⟩
theorem terminate : Statement .terminate := fun _ => ⟨rfl, by decide⟩
theorem drTake : Statement .drTake := fun _ => ⟨rfl, by decide⟩
theorem blitRect : Statement .blitRect := fun _ => ⟨rfl, by decide⟩
theorem cursorUpdate : Statement .cursorUpdate := fun _ => ⟨rfl, by decide⟩
theorem render : Statement .render := fun _ => ⟨rfl, by decide⟩
theorem tsDelta (p : BitVec 12) : Statement (.tsDelta p) := fun _ => ⟨rfl, packFields_and_mask 0 0xF p⟩
theorem coord (p : BitVec 12) : Statement (.coord p) := fun _ => ⟨rfl, packFields_and_mask 1 0xF p⟩
theorem down (p : BitVec 12) : Statement (.down p) := fun _ => ⟨rfl, packFields_and_mask 3 0xF p⟩
theorem up (p : BitVec 12) : Statement (.up p) := fun _ => ⟨rfl, packFields_and_mask 4 0xF p⟩
theorem tsAbs (p : BitVec 12) : Statement (.tsAbs p) := fun _ => ⟨rfl, packFields_and_mask 5 0xF p⟩
theorem reservedType2 (p : BitVec 12) : Statement (.reservedType2 p) := fun _ => ⟨rfl, packFields_and_mask 2 0xF p⟩

theorem reservedType67 (t : BitVec 4) (p : BitVec 12) : Statement (.reservedType67 t p) := by
  intro h
  refine ⟨rfl, (packFields_and_mask t 0xE p).trans ?_⟩
  have : ∀ t : BitVec 4, (t = 6 || t = 7) = true → packFields (t &&& 0xE) 0 = 0x6000 := by decide
  exact this t h

theorem reservedType815 (t : BitVec 4) (p : BitVec 12) : Statement (.reservedType815 t p) := by
  intro h
  refine ⟨rfl, (packFields_and_mask t 0x8 p).trans ?_⟩
  have : ∀ t : BitVec 4, decide (8 ≤ t.toNat) = true → packFields (t &&& 0x8) 0 = 0x8000 := by decide
  exact this t h

end Sys2Proof.Laws.TableRow
end

