-- ==== Sys2Proof/Tests/Slice0.lean ====
section
/-! SUPPORT. The author's tests: the checks of WellFormed, every constructor's decoding, one step of each instruction
with the expected values of spec/95_test_vectors.md, and for every statement with hypotheses a state and operands that
meet them all. -/

set_option maxRecDepth 8000

namespace Sys2Proof.Tests

open Sys2Proof Sys2Proof.Machine Sys2Proof.Claims

/-- The test parameters of 95_test_vectors.md section 0. -/
def cfg : Config := { Config.default with
  baseTable := [(4, 97), (5, 98), (20, 113), (30, 49), (36, 55)]
  shiftTable := [(4, 65), (30, 33)]
  cursorGlyph := [(0, 0xC000), (1, 0x8000)] }

/-- "Booted": reset, then SET_INPUT_SIGNAL 7; the next draws of TICK and WALL_SECONDS are listed. -/
def booted (ticks walls : List Word) : State :=
  { State.resetOf cfg with inSig := 7, clock := { ticks := ticks, walls := walls } }

/-- `s` with the host port's arguments. -/
def args (s : State) (a0 a1 a2 a3 : Word) : State :=
  { s with host := { s.host with arg0 := a0, arg1 := a1, arg2 := a2, arg3 := a3 } }

/-- `s` with a tick already sent. -/
def ticked (s : State) (t : Word) : State := { s with tsValid := true, lastTick := t }

/-- The state an answer leaves. (No answer of the model is a stop.) -/
def after : Answer → State
  | .next t => t
  | .fault _ => State.reset
  | .refused _ => State.reset

/-- FAULT_CODE and SEQ_PHASE. -/
def faultOf (s : State) : Nat × Phase := (s.faultCode.toNat, s.seqPhase)

/-- Every second word from the second: the event words, when every frame is one word. -/
def eventWords : List Half → List Half
  | _ :: e :: rest => e :: eventWords rest
  | [_] => []
  | [] => []

/-- The event words a command queues on a booted block whose ticks are all 0. -/
def words (i : Instr) (s : State) (a0 a1 a2 : Word) : List Half :=
  eventWords (after (exec i (args s a0 a1 a2 0))).heldWords

/-- A booted block with enough ticks of 0 for one command. -/
def quiet : State := booted [0, 0, 0, 0, 0, 0, 0, 0] []

/-- A bitmap and a screen. -/
def shown (s : State) (w h sw sh : Half) (words : Cells 16) : State :=
  { s with display := ⟨1, w, h, words⟩, screen := ⟨sw, sh⟩, fgColor := 1, bgColor := 0, cursorColor := 2 }

/-! ## WellFormed -/

theorem test_illFormed_type67 : (Instr.reservedType67 5 0).wellFormed = false := by decide
theorem test_illFormed_type815 : (Instr.reservedType815 7 0).wellFormed = false := by decide
theorem test_wellFormed_type67 : (Instr.reservedType67 6 0).wellFormed = true := by decide

/-! ## Decoding: words written out from 30_encoding.md R110 (opcode in bits 7:0, bits 31:8 zero) and R101 (type in bits
15:12, parameter in bits 11:0) -/

theorem test_decode_nop : decodeTableWord 32 0x00000000 = some .nop := by decide
theorem test_decode_frame : decodeTableWord 32 0x00000001 = some .frame := by decide
theorem test_decode_calcOffsets : decodeTableWord 32 0x00000002 = some .calcOffsets := by decide
theorem test_decode_checkWake : decodeTableWord 32 0x00000003 = some .checkWake := by decide
theorem test_decode_csrRead : decodeTableWord 32 0x00000008 = some .csrRead := by decide
theorem test_decode_csrWrite : decodeTableWord 32 0x00000009 = some .csrWrite := by decide
theorem test_decode_emit : decodeTableWord 32 0x00000010 = some .emit := by decide
theorem test_decode_decWord : decodeTableWord 32 0x00000011 = some .decWord := by decide
theorem test_decode_decReset : decodeTableWord 32 0x00000012 = some .decReset := by decide
theorem test_decode_keyRaw : decodeTableWord 32 0x00000018 = some .keyRaw := by decide
theorem test_decode_keyCooked : decodeTableWord 32 0x00000019 = some .keyCooked := by decide
theorem test_decode_mouseMotion : decodeTableWord 32 0x0000001C = some .mouseMotion := by decide
theorem test_decode_mouseButtons : decodeTableWord 32 0x0000001D = some .mouseButtons := by decide
theorem test_decode_mousePoll : decodeTableWord 32 0x0000001E = some .mousePoll := by decide
theorem test_decode_setInputSignal : decodeTableWord 32 0x00000020 = some .setInputSignal := by decide
theorem test_decode_qPop : decodeTableWord 32 0x00000021 = some .qPop := by decide
theorem test_decode_reportDamage : decodeTableWord 32 0x00000022 = some .reportDamage := by decide
theorem test_decode_setWake : decodeTableWord 32 0x00000023 = some .setWake := by decide
theorem test_decode_terminate : decodeTableWord 32 0x00000024 = some .terminate := by decide
theorem test_decode_drTake : decodeTableWord 32 0x00000030 = some .drTake := by decide
theorem test_decode_blitRect : decodeTableWord 32 0x00000031 = some .blitRect := by decide
theorem test_decode_cursorUpdate : decodeTableWord 32 0x00000032 = some .cursorUpdate := by decide
theorem test_decode_render : decodeTableWord 32 0x00000033 = some .render := by decide
theorem test_decode_tsDelta : decodeTableWord 16 0x0FFF = some (.tsDelta 4095) := by decide
theorem test_decode_coord : decodeTableWord 16 0x10C8 = some (.coord 200) := by decide
theorem test_decode_down : decodeTableWord 16 0x3061 = some (.down 97) := by decide
theorem test_decode_up : decodeTableWord 16 0x4061 = some (.up 97) := by decide
theorem test_decode_tsAbs : decodeTableWord 16 0x5000 = some (.tsAbs 0) := by decide
theorem test_decode_reservedType2 : decodeTableWord 16 0x2ABC = some (.reservedType2 0xABC) := by decide
theorem test_decode_reservedType67 : decodeTableWord 16 0x7001 = some (.reservedType67 7 1) := by decide
theorem test_decode_reservedType815 : decodeTableWord 16 0x8FFE = some (.reservedType815 8 0xFFE) := by decide

/-- R112: a reserved opcode, and an opcode with a bit above bit 7. -/
theorem test_decode_reserved : decodeTableWord 32 0x00000004 = none ∧ decodeTableWord 32 0x00000110 = none := by decide

/-! ## One step of each instruction; the vector of 95_test_vectors.md is named -/

/-- CO1: the first frame is a zero delta. -/
theorem test_emit_first : (after (exec .emit (args (booted [123456] []) 3 97 0 0))).heldWords = [0x0000, 0x3061] := by
  decide
/-- CO3: a delta of 4096 takes an absolute frame. -/
theorem test_emit_absolute :
    (after (exec .emit (args (ticked (booted [131647] [1700000000]) 127551) 3 98 0 0))).heldWords
      = [0x5000, 0xE71D, 0x3C00, 0x3062] := by decide
/-- DE4. -/
theorem test_decWord_up :
    (after (exec .decWord (args quiet 0x4061 0 0 0))).host.res0 = 5
    ∧ (after (exec .decWord (args quiet 0x4061 0 0 0))).host.res1 = 97 := by decide
/-- DE7, after DE5 and DE6. -/
theorem test_decWord_abs :
    (after (exec .decWord (args { quiet with decPhase := .lo, decHi := 0xE71D } 0x3C00 0 0 0))).host.res1
      = 0xE71D3C00 := by decide
/-- DE16: the marker is forgotten. -/
theorem test_decReset : (after (exec .decReset { quiet with decPhase := .hi })).decPhase = .tag := by decide
/-- KR6: control beats shift, and the letter is unshifted. -/
theorem test_keyRaw_control : words .keyRaw quiet 0x04 0x03 0 = [0x308A, 0x3061, 0x4061, 0x408A] := by decide
/-- KR11: alt on 'q'. -/
theorem test_keyRaw_alt : words .keyRaw quiet 0x14 0x04 0 = [0x3040, 0x4040] := by decide
/-- KC4. -/
theorem test_keyCooked_both :
    words .keyCooked { quiet with cfg := { cfg with kbdMode := .cooked } } 120 3 0
      = [0x308A, 0x3088, 0x3078, 0x4078, 0x4088, 0x408A] := by decide
/-- MM1. -/
theorem test_mouseMotion : words .mouseMotion quiet 10 20 0 = [0x100A, 0x1014] := by decide
/-- MM5: out of range, nothing moves. -/
theorem test_mouseMotion_range :
    faultOf (after (exec .mouseMotion (args quiet 4096 0 0 0))) = (3, .faulted)
    ∧ (after (exec .mouseMotion (args quiet 4096 0 0 0))).curNewX = 0 := by decide
/-- MB3, after MB2: the release of mask 1 before the press of mask 4. -/
theorem test_mouseButtons :
    words .mouseButtons { quiet with btn0 := ⟨true, 130⟩, btn1 := ⟨true, 128⟩ } 6 0 0 = [0x4082, 0x3081] := by decide
/-- The codes of R210, all three pressed at once. -/
theorem test_mouseButtons_codes : words .mouseButtons quiet 7 0 0 = [0x3082, 0x3080, 0x3081] := by decide
/-- R364: five free words take the motion but not the button, so nothing is queued; the registers are written (R141). -/
theorem test_mousePoll_dropped_whole :
    let t := after (exec .mousePoll { args quiet 10 20 1 0 with qCount := 251 })
    (t.qOvf, t.qCount, t.lastTick, t.tsValid) = (true, 251, 0, false)
    ∧ (t.btn0.down, t.lastMx, t.curNewY) = (true, 10, 20) := by decide
/-- MM7. -/
theorem test_mousePoll : words .mousePoll quiet 10 20 1 = [0x100A, 0x1014, 0x3082] := by decide
/-- CS2's set-up. -/
theorem test_setInputSignal : (after (exec .setInputSignal (args State.reset 7 0 0 0))).inSig = 7 := by decide
/-- R234's example. -/
theorem test_qPop :
    let t := after (exec .qPop { quiet with q := [(1, 0x3061)], qCount := 2 })
    t.host.res0 = 0 ∧ t.host.res1 = 1 ∧ t.heldWords = [0x3061] := by decide
/-- DR1: R251's example. -/
theorem test_reportDamage :
    (after (exec .reportDamage (args { shown quiet 64 64 64 64 [] with drW := 10, drH := 10 } 5 5 10 10))).dirty
      = ⟨0, 0, 15, 15⟩ := by decide
/-- DR8: one row too many. -/
theorem test_reportDamage_bounds :
    faultOf (after (exec .reportDamage (args (shown quiet 64 64 64 64 []) 0 64 0 1))) = (2, .faulted) := by decide
/-- DR11. -/
theorem test_drTake :
    let t := after (exec .drTake { quiet with drX := 5, drY := 5, drH := 3 })
    (t.host.res0, t.host.res1, t.host.res2, t.host.res3) = (5, 5, 0, 3) ∧ t.dirty = ⟨0, 0, 0, 0⟩ := by decide
/-- OF1. -/
theorem test_calcOffsets :
    let t := after (exec .calcOffsets (shown quiet 640 480 800 600 []))
    t.offX = 80 ∧ t.offY = 60 := by decide
/-- OF3: above half the bitmap. -/
theorem test_calcOffsets_clamp :
    let t := after (exec .calcOffsets (shown quiet 640 480 1920 1080 []))
    t.offX = 0 ∧ t.offY = 0 := by decide
/-- BL3: both rows are fetched, the second is off the screen. -/
theorem test_blitRect :
    (after (exec .blitRect (args (shown quiet 20 2 18 1 [(0, 0xFFFF), (1, 0xA000), (3, 0xF000)]) 16 0 4 2))).trace
      = [.fetch 1 1, .pixel 16 0 1, .pixel 17 0 0, .fetch 3 1] := by decide
/-- BL4: w = 0 still covers a word column. -/
theorem test_blitRect_zero_width :
    (after (exec .blitRect (args { shown quiet 20 2 40 10 [(3, 0xF000)] with offX := 2, offY := 1 } 17 1 0 1))).trace
      = [.fetch 3 1, .pixel 18 2 1, .pixel 19 2 1, .pixel 20 2 1, .pixel 21 2 1] := by decide
/-- CU3: the last pixels of its trace, and CUR_PREV. -/
theorem test_cursorUpdate :
    let t := after (exec .cursorUpdate { shown quiet 32 2 32 2 [(0, 0x8001), (2, 0xFFFF)] with
      curPrevX := 20, curPrevY := 1, curNewX := 31, curNewY := 1 })
    t.trace.length = 18 ∧ t.trace.head? = some (.fetch 3 1) ∧ t.trace.getLast? = some (.pixel 31 1 2)
    ∧ t.curPrevX = 31 := by decide
/-- RE3: the copy of row 0 (17 events), then CU1's 37. -/
theorem test_render :
    let t := after (exec .render { shown quiet 32 2 32 2 [(0, 0x8001), (2, 0xFFFF)] with
      drX := 3, drW := 5, drH := 1, curNewX := 5 })
    t.trace.length = 54 ∧ t.trace.getLast? = some (.pixel 5 1 2) ∧ t.dirty = ⟨0, 0, 0, 0⟩ := by decide
/-- RE1: no damage, nothing at all. -/
theorem test_render_no_damage :
    (after (exec .render { shown quiet 32 2 32 2 [] with curNewX := 5 })).trace = [] := by decide
/-- WK6. -/
theorem test_setWake_cancel :
    let t := after (exec .setWake (args { quiet with swPending := true, swSignal := 6, swTick := 2000 } 0 1234 0 0))
    (t.swPending, t.swSignal, t.swTick) = (false, 0, 0) := by decide
/-- WK2: equal counts as elapsed. -/
theorem test_checkWake_due :
    let t := after (exec .checkWake { booted [1000] [] with swPending := true, swSignal := 5, swTick := 1000 })
    t.trace = [.signal .timer 5] ∧ t.swPending = false := by decide
/-- WK4: the comparison does not wrap. -/
theorem test_checkWake_no_wrap :
    let t := after (exec .checkWake { booted [0x10] [] with swPending := true, swSignal := 5, swTick := 0xFFFFFFF0 })
    t.trace = [] ∧ t.swPending = true := by decide
/-- R313. -/
theorem test_frame : (after (exec .frame quiet)).seqPhase = .offsets := by decide
/-- SQ4. -/
theorem test_terminate_run : (after (exec .terminate { quiet with seqPhase := .run })).seqPhase = .termchk := by decide
/-- SQ5. -/
theorem test_terminate_idle :
    (after (exec .terminate quiet)).seqPhase = .terminated ∧ (after (exec .terminate quiet)).termFlag = true := by decide
/-- P3 line 8: STATUS of a terminated block. -/
theorem test_csrRead_status :
    (after (exec .csrRead (args { quiet with
      tsValid := true, swPending := true, mposValid := true, termFlag := true, seqPhase := .terminated } 0 0 0 0))).host.res0
      = 0x8F4 := by decide
/-- CS8: halted, an undefined index changes nothing. -/
theorem test_csrRead_halted :
    (after (exec .csrRead (args { quiet with seqPhase := .faulted, faultCode := 6 } 0x1C 0 0 0))).faultCode = 6 := by
  decide
/-- CS3. -/
theorem test_csrWrite_ctrl : (after (exec .csrWrite (args quiet 1 0xFFFFFFFF 0 0))).ctrl = 3 := by decide
/-- CS6. -/
theorem test_csrWrite_readonly : faultOf (after (exec .csrWrite (args quiet 8 5 0 0))) = (6, .faulted) := by decide
/-- IL3. -/
theorem test_nop : after (exec .nop quiet) = quiet := by decide
/-- DE1, DE9 and DE10, DE2, DE4, DE12, DE11 and two more reserved types, as instructions in phase TAG. -/
theorem test_tsDelta : (after (exec (.tsDelta 0) quiet)).host.res0 = 1 := by decide
theorem test_coord_x :
    (after (exec (.coord 100) quiet)).host.res0 = 2 ∧ (after (exec (.coord 100) quiet)).decXy = true := by decide
theorem test_coord_y : (after (exec (.coord 200) { quiet with decXy := true })).host.res0 = 3 := by decide
theorem test_down : (after (exec (.down 97) quiet)).host.res0 = 4 := by decide
theorem test_up : (after (exec (.up 97) quiet)).host.res0 = 5 := by decide
theorem test_tsAbs : (after (exec (.tsAbs 0xFFF) quiet)).decPhase = .hi := by decide
theorem test_reservedType2 :
    (after (exec (.reservedType2 0xABC) quiet)).host.res1 = 0x2ABC
    ∧ (after (exec (.reservedType2 0xABC) quiet)).decErr = true := by decide
theorem test_reservedType67 : (after (exec (.reservedType67 6 1) quiet)).host.res1 = 0x6001 := by decide
theorem test_reservedType815 : (after (exec (.reservedType815 15 1) quiet)).host.res1 = 0xF001 := by decide
/-- DE13: in phase HI a word is raw whatever its bits. -/
theorem test_tsAbs_raw : (after (exec (.tsAbs 0) { quiet with decPhase := .hi })).decHi = 0x5000 := by decide

/-! ## The step -/

/-- R114, R115: ARG1 to ARG3 are left as they were. -/
theorem test_pseudo_keeps_args :
    ((args quiet 6 7 8 9).host.presentPseudo .unregisterInput).command = ⟨0x20, 0, 7, 8, 9⟩ := by decide
/-- IL1: a reserved opcode at the host port. -/
theorem test_step_illegal :
    faultOf (after (step { quiet with host := { quiet.host with cmd := 4, waiting := true } })) = (5, .faulted) := by
  decide
/-- SQ6: the key's events stand, the mouse faults. -/
theorem test_step_poll_fault :
    let t := after (step { quiet with seqPhase := .poll, kbd := [⟨4, 0⟩], mouse := ⟨5000, 0, 0⟩ })
    faultOf t = (3, .faulted) ∧ t.heldWords = [0, 0x3061, 0, 0x4061] ∧ t.trace = [.signal .inputReady 7] := by decide
/-- DL3: the elapsed time wraps. -/
theorem test_step_delay :
    (after (step { booted [6] [] with seqPhase := .delay, delayStart := 0xFFFFFFFC, frameDelay := 10 })).seqPhase
      = .idle := by decide

/-! ## Witnesses: for each statement with hypotheses, a state and operands that meet them all -/

/-- A command waiting at a port. -/
def waitingAt (n : PortName) (cmd : Word) (p : Phase) : State :=
  { quiet with
    seqPhase := p
    host := { quiet.host with cmd := cmd, waiting := n = .host }
    peer := { quiet.peer with cmd := cmd, waiting := n = .peer } }

theorem witness_DecodeInvertsEncode :
    (Instr.reservedType67 7 0xFFF).wellFormed = true ∧ (Instr.reservedType815 8 0).wellFormed = true := by decide
theorem witness_EncodeInvertsDecode : decode (.event 0xFFFF) = .ok (.reservedType815 15 0xFFF) := rfl
theorem witness_PackAndUnpackAreInverse : 15 ≤ 15 ∧ 4095 ≤ 4095 := by decide
theorem witness_StepRunsTheCommandAtTheLivePort :
    (waitingAt .host 1 .idle).host.waiting = true ∧ decodeCommand (waitingAt .host 1 .idle).host.cmd = .ok .frame
    ∧ (waitingAt .host 1 .idle).schedule = [] := ⟨rfl, rfl, rfl⟩
theorem witness_StepRunsTheCommandAtTheLivePort_peer :
    (waitingAt .peer 0x21 .run).peer.waiting = true ∧ decodeCommand (waitingAt .peer 0x21 .run).peer.cmd = .ok .qPop
    ∧ (waitingAt .peer 0x21 .run).seqPhase = .run := ⟨rfl, rfl, rfl⟩
theorem witness_StepRunsTheCommandAtTheLivePort_block :
    ({ waitingAt .host 8 .faulted with schedule := [.block] } : State).schedule = .block :: []
    ∧ decodeCommand (waitingAt .host 8 .faulted).host.cmd = .ok .csrRead := ⟨rfl, rfl⟩
theorem witness_StepRunsTheCommandAtTheLivePort_none :
    (waitingAt .peer 1 .terminated).host.waiting = false ∧ (waitingAt .peer 1 .terminated).schedule = [] := ⟨rfl, rfl⟩
theorem witness_PlacedWordRunsNext :
    decodeTableWord 32 0x10 = some .emit ∧ decodeTableWord 16 0xF001 = some (.reservedType815 15 1) := by decide
theorem witness_CommandsWaitDuringInternalPhases :
    ∃ t, (waitingAt .host 1 .wake).schedule = []
      ∧ (waitingAt .host 1 .wake).seqPhase ∈ [Phase.offsets, .poll, .wake, .termchk, .render, .delay]
      ∧ step (waitingAt .host 1 .wake) = .next t := ⟨_, rfl, by decide, rfl⟩
theorem witness_ClassHFaultsInRun : Instr.emit.cls = .H ∧ (waitingAt .peer 0x10 .run).seqPhase = .run := ⟨rfl, rfl⟩
theorem witness_IllegalCommandWordFaults :
    (waitingAt .host 0x110 .idle).host.waiting = true ∧ (waitingAt .host 0x110 .idle).schedule = []
    ∧ decodeCommand (waitingAt .host 0x110 .idle).host.cmd = .error (.reservedBits 0x110) := ⟨rfl, rfl, rfl⟩
theorem witness_IllegalCommandWordFaults_peer :
    (waitingAt .peer 4 .run).peer.waiting = true
    ∧ decodeCommand (waitingAt .peer 4 .run).peer.cmd = .error (.reservedOpcode 4) := ⟨rfl, rfl⟩
theorem witness_IllegalCommandWordFaults_halted :
    (waitingAt .host 4 .terminated).host.waiting = true
    ∧ decodeCommand (waitingAt .host 4 .terminated).host.cmd = .error (.reservedOpcode 4) := ⟨rfl, rfl⟩
theorem witness_HaltedIgnoresAllButClassA :
    (waitingAt .host 1 .terminated).seqPhase = .terminated ∧ Instr.frame.cls ≠ .A := ⟨rfl, by decide⟩
theorem witness_FaultsArePrecise :
    ∃ t, exec .emit State.reset = .next t ∧ State.reset.seqPhase ≠ .faulted ∧ t.seqPhase = .faulted :=
  ⟨_, rfl, by decide, rfl⟩
theorem witness_AbsentKeyboardModeFaults :
    ({ quiet with cfg := { cfg with kbdMode := .cooked } } : State).cfg.kbdMode = .cooked
    ∧ quiet.cfg.kbdMode = .raw ∧ quiet.seqPhase = .idle := ⟨rfl, rfl, rfl⟩
theorem witness_OnlyResetLeavesHalted :
    ∃ t, (waitingAt .host 8 .faulted).seqPhase = .faulted ∧ (waitingAt .host 8 .faulted).schedule.head? ≠ some .reset
      ∧ step (waitingAt .host 8 .faulted) = .next t := ⟨_, rfl, by decide, rfl⟩
theorem witness_ResetWritesEveryRegister : ({ quiet with schedule := [.reset] } : State).schedule = .reset :: [] := rfl
theorem witness_ResetMeetsTheInvariant : Config.default.Legal := by decide
theorem witness_StepKeepsTheInvariant : ∃ t, State.reset.Inv ∧ step State.reset = .next t := ⟨_, by decide, rfl⟩
theorem witness_StepAppendsOutputsInRange :
    ∃ t, (waitingAt .host 0x33 .idle).Inv ∧ (waitingAt .host 0x33 .idle).schedule.head? ≠ some .reset
      ∧ step (waitingAt .host 0x33 .idle) = .next t := ⟨_, by decide, by decide, rfl⟩
theorem witness_PhasesFollowTheTable :
    ∃ t, (waitingAt .host 1 .idle).schedule.head? ≠ some .reset ∧ step (waitingAt .host 1 .idle) = .next t :=
  ⟨_, by decide, rfl⟩
theorem witness_IterationStartsByFrameEndsByTerminate :
    ∃ t, (waitingAt .host 1 .idle).schedule.head? ≠ some .reset ∧ step (waitingAt .host 1 .idle) = .next t
      ∧ t.seqPhase ≠ (waitingAt .host 1 .idle).seqPhase ∧ t.seqPhase = .offsets := ⟨_, by decide, rfl, by decide, rfl⟩
theorem witness_IterationStartsByFrameEndsByTerminate_idle :
    ∃ t, step (waitingAt .host 0x24 .idle) = .next t ∧ t.seqPhase = .terminated := ⟨_, rfl, rfl⟩
theorem witness_IterationStartsByFrameEndsByTerminate_run :
    ∃ t, step { quiet with seqPhase := .termchk, termFlag := true } = .next t ∧ t.seqPhase = .terminated := ⟨_, rfl, rfl⟩
theorem witness_ConfigurationIsConstantOutsideIdle :
    ∃ t, (waitingAt .peer 9 .run).schedule.head? ≠ some .reset ∧ (waitingAt .peer 9 .run).seqPhase ≠ .idle
      ∧ step (waitingAt .peer 9 .run) = .next t := ⟨_, by decide, by decide, rfl⟩
theorem witness_ConfigurationIsConstantOutsideIdle_write :
    ∃ t, exec .csrWrite (args quiet 5 9 0 0) = .next t ∧ t.fgColor = 9 := ⟨_, rfl, rfl⟩
theorem witness_StickyStateHasOneWriter :
    ∃ t, exec .emit (args (ticked quiet 0) 3 97 0 0) = .next t ∧ (ticked quiet 0).tsValid = true := ⟨_, rfl, rfl⟩
theorem witness_PortsDoNotInterfere :
    ∃ t, exec .qPop (waitingAt .peer 0x21 .run) = .next t ∧ (waitingAt .peer 0x21 .run).seqPhase = .run := ⟨_, rfl, rfl⟩
theorem witness_PortsDoNotInterfere_host :
    ∃ t, exec .qPop quiet = .next t ∧ quiet.seqPhase ≠ .run := ⟨_, rfl, by decide⟩
theorem witness_PortsDoNotInterfere_internal :
    ∃ t, (waitingAt .peer 0x21 .poll).schedule = [] ∧ step (waitingAt .peer 0x21 .poll) = .next t := ⟨_, rfl, rfl⟩
theorem witness_EmitFramesOneEvent : (args quiet 4 4095 0 0).seqPhase = .idle := rfl
theorem witness_GroupFramesEachEvent : (⟨15, 4095⟩ : Event).type ≤ 15 ∧ (⟨15, 4095⟩ : Event).param ≤ 4095 := by decide
theorem witness_GroupWordsParseBack :
    ∀ e ∈ [(⟨1, 4095⟩ : Event), ⟨3, 0⟩, ⟨4, 1⟩], (e.type = 1 ∨ e.type = 3 ∨ e.type = 4) ∧ e.param ≤ 4095 := by decide
/-- The longest short delta and the shortest long one. -/
theorem witness_FramesRoundTripThroughTheDecoder :
    quiet.seqPhase = .idle ∧ quiet.decPhase = .tag
    ∧ (2 ^ 32 + (4095 : Word).toNat - (0 : Word).toNat) % 2 ^ 32 ≤ 4095
    ∧ 4095 < (2 ^ 32 + (4096 : Word).toNat - (0 : Word).toNat) % 2 ^ 32 := by decide
theorem witness_DecWordFollowsThePhase : (args quiet 0x5000 0 0 0).seqPhase = .idle := rfl
theorem witness_EventWordsRunAsDecWordTokens : quiet.seqPhase = .idle ∧ quiet.decPhase = .tag := ⟨rfl, rfl⟩
theorem witness_DecResetRestartsTheDecoder : ({ quiet with decPhase := .lo } : State).seqPhase = .idle := rfl

/-- A raw key's hypotheses common to every keyboard statement, for scan code and modifiers `a` and `b`. -/
def key (a b : Word) : State := args quiet a b 0 0

theorem witness_IgnoredRawKeysWriteOnlyModState_range :
    (key 256 0).seqPhase = .idle ∧ (key 256 0).cfg.kbdMode = .raw ∧ 255 < (key 256 0).arg0.toNat := by decide
theorem witness_IgnoredRawKeysWriteOnlyModState_undecoded :
    (key 128 0).arg0.toNat ≠ (key 128 0).cfg.capslockScan.toNat ∧ 127 < (key 128 0).arg0.toNat
    ∧ (key 128 0).undecoded = false := by decide
theorem witness_IgnoredRawKeysWriteOnlyModState_meta :
    (key 127 8).arg0.toNat ≠ (key 127 8).cfg.capslockScan.toNat ∧ (key 127 8).arg0.toNat ≤ 127
    ∧ (8 : Byte) &&& (key 127 8).cfg.metaMask ≠ 0 := by decide
theorem witness_IgnoredRawKeysWriteOnlyModState_alt :
    (4 : Byte) &&& (key 4 4).cfg.metaMask = 0 ∧ (4 : Byte) &&& (key 4 4).cfg.altMask ≠ 0
    ∧ (key 4 4).cfg.altTable.read ((key 4 4).cfg.baseTable.read 4).toNat = 0 := by decide
theorem witness_IgnoredRawKeysWriteOnlyModState_control :
    let c := { cfg with ctrlNonletter := .ignore, baseTable := [(30, 64), (31, 91), (32, 96), (33, 123)] }
    (1 : Byte) &&& c.metaMask = 0 ∧ (1 : Byte) &&& c.altMask = 0 ∧ (1 : Byte) &&& c.ctrlMask ≠ 0
    ∧ (∀ scan ∈ [30, 31, 32, 33], ¬ letterCode (c.baseTable.read scan).toNat) ∧ c.ctrlNonletter = .ignore := by decide
theorem witness_IgnoredRawKeysWriteOnlyModState_empty :
    (2 : Byte) &&& (key 5 2).cfg.shiftMask ≠ 0 ∧ (key 5 2).cfg.shiftTable.read 5 = 0
    ∧ (0 : Byte) &&& (key 6 0).cfg.shiftMask = 0 ∧ (key 6 0).cfg.baseTable.read 6 = 0 := by decide
theorem witness_CapsDrivesCapsLockAndUndecodedWords :
    (key 0x39 8).seqPhase = .idle ∧ (key 0x39 8).cfg.kbdMode = .raw
    ∧ (key 0x39 8).arg0.toNat = (key 0x39 8).cfg.capslockScan.toNat := by decide
theorem witness_CapsDrivesCapsLockAndUndecodedWords_code :
    127 < (key 128 0).arg0.toNat ∧ (key 255 0).arg0.toNat ≤ 255
    ∧ (key 255 0).arg0.toNat ≠ (key 255 0).cfg.capslockScan.toNat := by decide
theorem witness_ControlLetterEmitsTheBracket :
    (key 4 1).seqPhase = .idle ∧ (key 4 1).arg0.toNat ≤ 127
    ∧ (key 4 1).arg0.toNat ≠ (key 4 1).cfg.capslockScan.toNat
    ∧ (1 : Byte) &&& (key 4 1).cfg.metaMask = 0 ∧ (1 : Byte) &&& (key 4 1).cfg.altMask = 0
    ∧ (1 : Byte) &&& (key 4 1).cfg.ctrlMask ≠ 0
    ∧ letterCode ((key 4 1).cfg.baseTable.read (key 4 1).arg0.toNat).toNat
    ∧ (∀ n ∈ [65, 90, 97, 122], letterCode n) := by decide
theorem witness_TableKeysEmitDownUpPairs_alt :
    (key 0x14 4).arg0.toNat ≤ 127 ∧ (4 : Byte) &&& (key 0x14 4).cfg.altMask ≠ 0
    ∧ ((key 0x14 4).cfg.baseTable.read 0x14).toNat ≤ 127
    ∧ (key 0x14 4).cfg.altTable.read ((key 0x14 4).cfg.baseTable.read 0x14).toNat ≠ 0 := by decide
theorem witness_TableKeysEmitDownUpPairs_shift :
    (3 : Byte) &&& (key 30 3).cfg.altMask = 0 ∧ ¬ letterCode ((key 30 3).cfg.baseTable.read 30).toNat
    ∧ (key 30 3).cfg.ctrlNonletter = .fallthrough ∧ (3 : Byte) &&& (key 30 3).cfg.shiftMask ≠ 0
    ∧ (key 30 3).cfg.shiftTable.read 30 ≠ 0 := by decide
theorem witness_TableKeysEmitDownUpPairs_plain :
    (0 : Byte) &&& (key 4 0).cfg.metaMask = 0 ∧ (0 : Byte) &&& (key 4 0).cfg.altMask = 0
    ∧ (0 : Byte) &&& (key 4 0).cfg.ctrlMask = 0 ∧ (0 : Byte) &&& (key 4 0).cfg.shiftMask = 0
    ∧ (key 4 0).cfg.baseTable.read 4 ≠ 0 := by decide
theorem witness_CookedKeysNestTheirBrackets :
    (args { quiet with cfg := { cfg with kbdMode := .cooked } } 255 3 0 0).cfg.kbdMode = .cooked
    ∧ (args { quiet with cfg := { cfg with kbdMode := .cooked } } 255 3 0 0).seqPhase = .idle := ⟨rfl, rfl⟩
theorem witness_ButtonsLatchAtPressReplayAtRelease :
    (args quiet 7 0 0 0).seqPhase = .idle ∧ (args quiet 7 0 0 0).cfg.buttonCodes = [] := ⟨rfl, rfl⟩

/-- A block that has reported the position (x, y). -/
def at_ (x y : Half) : State := { quiet with mposValid := true, lastMx := x, lastMy := y }

theorem witness_MotionReportsXThenY_unchanged : ¬ reported 10 20 (at_ 10 20) := by unfold reported; decide
theorem witness_MotionReportsXThenY_noSignal :
    reported 11 20 { at_ 10 20 with inSig := 0 } ∧ ({ at_ 10 20 with inSig := 0 } : State).inSig = 0 := by
  unfold reported; decide
theorem witness_MotionReportsXThenY_range :
    reported 4096 0 (at_ 10 20) ∧ (at_ 10 20).inSig ≠ 0 ∧ 4095 < (4096 : Word).toNat := by unfold reported; decide
theorem witness_MotionReportsXThenY_report :
    reported 4095 4095 (at_ 10 20) ∧ (at_ 10 20).inSig ≠ 0 ∧ (4095 : Word).toNat ≤ 4095 := by unfold reported; decide
theorem witness_PollIsMotionThenButtons :
    (args (at_ 10 20) 10 20 1 0).seqPhase = .idle ∧ ¬ reported 10 20 (args (at_ 10 20) 10 20 1 0)
    ∧ reported 4095 4095 (args (at_ 10 20) 4095 4095 1 0) := by unfold reported; decide
theorem witness_PollIsMotionThenButtons_fault :
    reported 4096 0 (args (at_ 10 20) 4096 0 1 0) ∧ (args (at_ 10 20) 4096 0 1 0).inSig ≠ 0
    ∧ 4095 < (args (at_ 10 20) 4096 0 1 0).arg0.toNat := by unfold reported; decide
theorem witness_PollIsMotionThenButtons_calls :
    let s := args quiet 4095 0 7 0
    ∃ t u, exec .mouseMotion s = .next t
      ∧ exec .mouseButtons { t with host := { t.host with arg0 := s.host.arg2 } } = .next u ∧ u.seqPhase = .idle
      ∧ s.qCount + (s.frameEvents (positionEvents s.arg0 s.arg1 s ++ maskEvents s.arg2 s)).words.length ≤ s.cfg.qdepth :=
  ⟨_, _, rfl, rfl, by decide, by decide⟩

/-- A queue whose two words wrap around the end of its storage. -/
def wrapped : State := { quiet with q := [(0, 2), (255, 1)], qHead := 255, qCount := 2 }

theorem witness_EnqueuedWordsJoinTheHeldWords :
    wrapped.QueueInv ∧ wrapped.qCount + [(3 : Half)].length ≤ wrapped.cfg.qdepth
    ∧ ∀ k, k < [(3 : Half)].length → 2 ≠ (wrapped.qHead + wrapped.qCount + k) % wrapped.cfg.qdepth := by decide
theorem witness_PopReturnsTheOldestWord : wrapped.QueueInv ∧ wrapped.heldWords = 1 :: [2] := by decide
theorem witness_PopReturnsTheOldestWord_empty : quiet.qCount = 0 ∧ quiet.seqPhase = .idle := ⟨rfl, rfl⟩
theorem witness_SetInputSignalWritesInSig :
    (args quiet 7 0 0 0).seqPhase = .idle ∧ (waitingAt .peer 0x20 .run).seqPhase = .run := ⟨rfl, rfl⟩

/-- A block with a 64 × 64 bitmap and a tracked rectangle that touches the far corner. -/
def damaged : State := { shown quiet 64 64 64 64 [] with drX := 60, drY := 60, drW := 4, drH := 4 }

theorem witness_DamageIsCheckedThenUnited :
    (args damaged 63 0 1 64).DirtyInv ∧ (args damaged 63 0 1 64).seqPhase = .idle
    ∧ (args damaged 63 0 1 64).display.handle ≠ 0
    ∧ (args damaged 63 0 1 64).arg0.toNat + (args damaged 63 0 1 64).arg2.toNat ≤ damaged.display.w.toNat
    ∧ (args damaged 63 0 1 64).arg1.toNat + (args damaged 63 0 1 64).arg3.toNat ≤ damaged.display.h.toNat := by decide
theorem witness_DamageIsCheckedThenUnited_bounds :
    (args damaged 63 0 2 0).DirtyInv ∧ (args damaged 63 0 2 0).display.handle ≠ 0
    ∧ damaged.display.w.toNat < (args damaged 63 0 2 0).arg0.toNat + (args damaged 63 0 2 0).arg2.toNat := by decide
theorem witness_DamageIsCheckedThenUnited_null : quiet.DirtyInv ∧ quiet.display.handle = 0 := by decide
theorem witness_TakeReturnsAndClearsTheRect : damaged.seqPhase = .idle := rfl
theorem witness_OffsetsCentreOrClampToZero : (shown quiet 640 480 800 600 []).seqPhase = .idle := rfl
theorem witness_BlitIsTheLiteralLoop : (args damaged 3 0 5 1).seqPhase = .idle := rfl
theorem witness_CursorUpdateRestoresThenStamps : damaged.seqPhase = .idle := rfl
theorem witness_RenderCopiesDamageThenCursor : damaged.seqPhase = .idle ∧ damaged.drW ≠ 0 := by decide
theorem witness_SetWakeReplacesOrCancels :
    (args quiet 5 1000 0 0).seqPhase = .idle ∧ (waitingAt .peer 0x23 .run).seqPhase = .run := ⟨rfl, rfl⟩
theorem witness_CheckWakeDeliversOnce :
    ({ booted [1000] [] with swPending := true, swSignal := 5, swTick := 1000 } : State).seqPhase = .idle := rfl
theorem witness_FrameAndTerminateMoveThePhase :
    quiet.seqPhase = .idle ∧ (waitingAt .peer 0x24 .run).seqPhase = .run
    ∧ (waitingAt .host 0x24 .faulted).seqPhase = .faulted := ⟨rfl, rfl, rfl⟩
theorem witness_InternalStepsRunTheFrameLoop :
    ∀ p ∈ [Phase.offsets, .wake, .termchk, .render, .delay],
      ({ quiet with seqPhase := p } : State).schedule = [] ∧ ({ quiet with seqPhase := p } : State).seqPhase = p := by
  decide
theorem witness_InternalStepsRunTheFrameLoop_runDone :
    let s : State := { quiet with seqPhase := .run, schedule := [.runDone] }
    s.schedule = .runDone :: [] ∧ s.seqPhase = .run ∧ s.peer.waiting = false := ⟨rfl, rfl, rfl⟩

/-- Phase POLL, the keyboard and mouse ports as given. -/
def polling (ks : List KeyReport) (x : Word) : State := { quiet with seqPhase := .poll, kbd := ks, mouse := ⟨x, 0, 0⟩ }

theorem witness_PollRunsEachReportAsItsCommand :
    ∃ t, (polling [⟨4, 0⟩] 0).schedule = [] ∧ (polling [⟨4, 0⟩] 0).faultCode = 0
      ∧ exec .keyRaw (asCommand ⟨4, 0⟩ (polling [⟨4, 0⟩] 0)) = .next t ∧ t.seqPhase ≠ .faulted :=
  ⟨_, rfl, rfl, rfl, by decide⟩
theorem witness_PollRunsEachReportAsItsCommand_fault :
    ∃ t, exec .keyRaw (asCommand ⟨4, 0⟩ { polling [⟨4, 0⟩] 0 with inSig := 0 }) = .next t ∧ t.seqPhase = .faulted :=
  ⟨_, rfl, rfl⟩
theorem witness_PollEndsWithTheMouse :
    ∃ t, (polling [] 4096).schedule = [] ∧ (polling [] 4096).seqPhase = .poll ∧ (polling [] 4096).faultCode = 0
      ∧ (polling [] 4096).kbd = []
      ∧ exec .mousePoll { polling [] 4096 with
          seqPhase := .idle
          host := { (polling [] 4096).host with
            arg0 := (polling [] 4096).mouse.x, arg1 := (polling [] 4096).mouse.y, arg2 := (polling [] 4096).mouse.btn } }
        = .next t := ⟨_, rfl, rfl, rfl, rfl, rfl⟩
theorem witness_QuietIterationOnlyRequestsTheRun :
    let s : State := { at_ 0 0 with
      host := { quiet.host with cmd := 1, waiting := true }
      schedule := [.runDone], cyclesPerFrame := 100, ctrl := 2 }
    s.seqPhase = .idle ∧ s.host.waiting = true ∧ s.host.cmd = 1 ∧ s.peer.waiting = false ∧ s.schedule = [.runDone]
    ∧ s.cyclesPerFrame = 100 ∧ s.vsync = true ∧ s.termFlag = false ∧ (s.drW = 0 ∨ s.drH = 0) ∧ s.swPending = false
    ∧ s.kbd = [] ∧ s.cfg.motionPolicy = .onChange ∧ s.mposValid = true
    ∧ s.mouse.x.toNat = s.lastMx.toNat ∧ s.mouse.y.toNat = s.lastMy.toNat
    ∧ maskBit s.mouse.btn 1 = s.btn0.down ∧ maskBit s.mouse.btn 2 = s.btn1.down ∧ maskBit s.mouse.btn 4 = s.btn2.down := by
  decide
theorem witness_CsrReadReturnsTheMappedValue :
    (0x0C, 256) ∈ csrMap (args quiet 0x0C 0 0 0) ∧ (args quiet 0x0C 0 0 0).arg0.toNat = 0x0C
    ∧ 0x1C ≤ (args quiet 0x1C 0 0 0).arg0.toNat := by decide
theorem witness_CsrWriteWritesOnlyItsRegister : (args quiet 0 3 0 0).seqPhase = .idle := rfl
theorem witness_PseudoInstructionsDoWhatTheyName :
    (args quiet 9 9 9 9).schedule = [] ∧ (args quiet 9 9 9 9).seqPhase = .idle
    ∧ (args quiet 9 9 9 9).host.waiting = false := ⟨rfl, rfl, rfl⟩
theorem witness_PseudoInstructionsDoWhatTheyName_run :
    ({ quiet with seqPhase := .run } : State).schedule = [] ∧ ({ quiet with seqPhase := .run } : State).seqPhase = .run
    ∧ ({ quiet with seqPhase := .run } : State).peer.waiting = false := ⟨rfl, rfl, rfl⟩

end Sys2Proof.Tests
end

section
/-! SUPPORT for the state family (10_state.md), part 1: what the rules with branches can do, what they leave of
the context, what a word fed to the decoder writes, and what a step can do. -/

namespace Sys2Proof.Machine

variable {s t : State}

/-! What each rule with branches can do when it stands. -/

theorem emitGroup_of_emit_ok {type param : Word} (h : emit type param s = .ok t) :
    emitGroup [⟨type.toNat, param.toNat⟩] s = .ok t := by
  unfold emit at h
  split at h
  · split at h <;> cases h
  · exact h

theorem emitGroup_of_keyRaw_ok {scan mods : Word} (h : keyRaw scan mods s = .ok t) :
    ∃ events, emitGroup events
      { s with modState := mods.setWidth 8, caps := rawKeyCaps s.cfg s.caps scan.toNat } = .ok t := by
  unfold keyRaw at h
  split at h
  · cases h
  · exact ⟨_, h⟩

/-- An ignored cooked key (R185) is an empty group. -/
theorem emitGroup_of_keyCooked_ok {b f : Word} (h : keyCooked b f s = .ok t) :
    ∃ events, emitGroup events s = .ok t := by
  unfold keyCooked at h
  split at h
  · cases h
  · split at h
    · exact ⟨[], h⟩
    · exact ⟨_, h⟩

/-- CSR_READ returns a value, or does nothing (R341). -/
theorem csrRead_ok {index : Word} (h : csrRead index s = .ok t) : t = s ∨ ∃ v, t = s.setRes0 v := by
  unfold csrRead at h
  split at h
  · cases h; exact .inr ⟨_, rfl⟩
  · split at h <;> cases h
    exact .inl rfl

/-- CSR_WRITE writes STATUS's two flags or a configuration register, CTRL through its mask (R342). -/
theorem csrWrite_ok {index value : Word} (h : csrWrite index value s = .ok t) :
    ∃ ovf err ctrl cpf delay fg bg cur,
      t = { s with qOvf := ovf, decErr := err, ctrl := ctrl, cyclesPerFrame := cpf, frameDelay := delay, fgColor := fg,
                   bgColor := bg, cursorColor := cur }
      ∧ (ctrl = s.ctrl ∨ ctrl = value &&& ctrlMask) := by
  unfold csrWrite at h
  split at h
  next r _ =>
    cases r <;> cases h
    case ctrl => exact ⟨_, _, _, _, _, _, _, _, rfl, .inr rfl⟩
    all_goals exact ⟨_, _, _, _, _, _, _, _, rfl, .inl rfl⟩
  next => cases h

/-- REPORT_DAMAGE tracks the reported rectangle or its union, and the report is inside the bitmap (R252, R253). -/
theorem reportDamage_ok {r : Rect} (h : reportDamage r s = .ok t) :
    r.x + r.w ≤ s.display.w.toNat ∧ r.y + r.h ≤ s.display.h.toNat
    ∧ (t = s.setDirty r ∨ t = s.setDirty (s.dirty.union r)) := by
  unfold reportDamage at h
  split at h
  · cases h
  · split at h
    · cases h
    · refine ⟨by omega, by omega, ?_⟩
      split at h <;> cases h
      · exact .inl rfl
      · exact .inr rfl

/-- Phase POLL ends in a fault of a sub-step, or after the mouse (R315). -/
theorem pollStep_cases (s : State) :
    ∃ t, t = (keySubSteps s.kbd { s with kbd := [] }).1
      ∧ ((∃ c, pollStep s = t.takeFault c)
        ∨ ∃ u, mousePoll t.mouse.x t.mouse.y t.mouse.btn t = .ok u ∧ pollStep s = { u with seqPhase := .wake }) := by
  refine ⟨_, rfl, ?_⟩
  unfold pollStep
  split
  next t c heq => exact .inl ⟨c, by rw [heq]⟩
  next t heq =>
    rw [heq]
    split
    next u hu => exact .inr ⟨u, hu, rfl⟩
    next c _ => exact .inl ⟨c, rfl⟩

/-! What the shared rules leave of the context. -/

theorem calcOffsets_context (s : State) : (calcOffsets s).context = s.context := by
  unfold calcOffsets
  split <;> rfl

theorem checkWake_context (s : State) : (checkWake s).context = s.context := by
  unfold checkWake
  split
  · dsimp only
    split <;> rfl
  · rfl

theorem cursorUpdate_context (s : State) : (cursorUpdate s).context = s.context := by
  unfold cursorUpdate
  split <;> rfl

theorem renderPass_context (s : State) : (renderPass s).context = s.context := by
  unfold renderPass
  split
  · rfl
  · exact cursorUpdate_context _

theorem emit_context {type param : Word} (h : emit type param s = .ok t) : t.context = s.context :=
  emitGroup_context (emitGroup_of_emit_ok h)

theorem csrWrite_context {index value : Word} (h : csrWrite index value s = .ok t) : t.context = s.context := by
  obtain ⟨_, _, _, _, _, _, _, _, rfl, _⟩ := csrWrite_ok h
  rfl

theorem reportDamage_context {r : Rect} (h : reportDamage r s = .ok t) : t.context = s.context := by
  obtain ⟨_, _, rfl | rfl⟩ := reportDamage_ok h <;> rfl

theorem setWake_context (s : State) (signal tick : Word) : (setWake signal tick s).context = s.context := by
  unfold setWake
  split <;> rfl

theorem seqPhase_of_context (h : t.context = s.context) : t.seqPhase = s.seqPhase := congrArg Context.seqPhase h

theorem ports_of_context (h : t.context = s.context) : t.host = s.host ∧ t.peer = s.peer :=
  ⟨congrArg Context.host h, congrArg Context.peer h⟩

/-! EmitGroup (40_event_codec.md R140). -/

/-- A group that does not fault has parameters that fit their field (R140). -/
theorem param_le_of_emitGroup_ok {events : List Event} (h : emitGroup events s = .ok t) :
    ∀ e ∈ events, e.param ≤ 4095 := by
  have hrange : events = [] ∨ events.any Event.outOfRange = false := by
    rcases emitGroup_cases h with ⟨hn, _⟩ | ⟨_, _, h⟩ | ⟨_, _, _, h⟩ | ⟨_, _, hr, _⟩ | ⟨_, _, hr, _⟩
    · exact .inl hn
    · cases h
    · cases h
    · exact .inr hr
    · exact .inr hr
  intro e he
  rcases hrange with rfl | hr
  · cases he
  · have := List.any_eq_false.mp hr e he
    simp only [Event.outOfRange, Bool.or_eq_true, decide_eq_true_eq] at this
    omega

/-- Framing an event sets TS_VALID (40_event_codec.md R140). -/
theorem foldl_add_tsValid (events : List Event) {f : Framing} (hf : f.tsValid = true) :
    (events.foldl Framing.add f).tsValid = true := by
  induction events generalizing f with
  | nil => exact hf
  | cons e es ih => exact ih (f := f.add e) rfl

/-! The stream decoder (40_event_codec.md R150). -/

/-- What a word fed to the decoder writes: the decoder's registers, and a token at the live port. -/
def State.decoded (s : State) (phase : DecPhase) (high : Half) (xy err : Bool) (k : TokenKind) (v : Word) : State :=
  { s with decPhase := phase, decHi := high, decXy := xy, decErr := err }.token k v

/-- A tagged word's effect that writes the decoder's registers and a token. -/
def WritesToken (tagged : State → State) : Prop :=
  ∀ s, ∃ phase high xy err k v, tagged s = s.decoded phase high xy err k v

theorem feed_writesToken (w : Half) {tagged : State → State} (h : WritesToken tagged) :
    WritesToken (feed w tagged) := by
  intro s
  unfold feed
  split
  · exact ⟨_, _, _, _, _, _, rfl⟩
  · exact ⟨_, _, _, _, _, _, rfl⟩
  · exact h s

theorem taggedEffect_writesToken (w : Half) : WritesToken (taggedEffect w) := by
  intro s
  unfold taggedEffect
  split <;> exact ⟨_, _, _, _, _, _, rfl⟩

/-- The instructions that feed a word to the stream decoder: DEC_WORD and the event words. -/
def feedsDecoder : Instr → Bool
  | .decWord | .tsDelta _ | .coord _ | .down _ | .up _ | .tsAbs _ => true
  | .reservedType2 _ | .reservedType67 _ _ | .reservedType815 _ _ => true
  | _ => false

theorem ruleOf_of_feedsDecoder {i : Instr} (hf : feedsDecoder i = true) (h : ruleOf i s = .ok t) :
    ∃ phase high xy err k v, t = s.decoded phase high xy err k v := by
  cases i <;> cases hf <;> cases h
  case decWord => exact feed_writesToken _ (taggedEffect_writesToken _) s
  all_goals exact feed_writesToken _ (fun _ => ⟨_, _, _, _, _, _, rfl⟩) s

/-! The step (46_sequencer.md R311). -/

/-- RunDone comes in RUN alone (R66, R317). -/
theorem run_of_ready_runDone (h : Move.ready s .runDone = true) : s.seqPhase = .run := by
  simp only [Move.ready, Bool.and_eq_true, decide_eq_true_eq] at h
  exact h.1

/-- A step is the block's transition, or the first move of the schedule, which can happen. -/
theorem step_cases (h : step s = .next t) :
    blockStep s = .next t
    ∨ ∃ m rest, s.schedule = m :: rest ∧ m.ready { s with schedule := rest } = true
        ∧ m.apply { s with schedule := rest } = .next t := by
  unfold step advance at h
  split at h
  · exact .inl h
  next m rest hm =>
    split at h
    next hr =>
      refine .inr ⟨m, rest, hm, ?_, h⟩
      cases m <;> exact hr
    · exact .inl h

theorem step_of_no_move (h : s.schedule = []) : step s = blockStep s := by
  unfold step advance
  rw [h]

/-- A scheduled reset can always happen (70_reset_and_hazards.md R400). -/
theorem step_of_reset {rest : List Move} (h : s.schedule = .reset :: rest) :
    step s = .next { s with schedule := rest }.assertReset := by
  unfold step advance
  rw [h]
  rfl

end Sys2Proof.Machine
end

section
/-! The state family (10_state.md), part 2: one step keeps the invariant of R70, and what it appends to the output
trace is in range. Both follow from one relation between a state and a later one, `SoundStep`, which every rule, every
internal step and the fault transition satisfy and which composes. -/

namespace Sys2Proof.Machine

open Sys2Proof.Claims

variable {s t u : State}

/-! The relation, and how it composes. -/

/-- The output trace of `t` is that of `s` followed by events in range on the screen and bitmap of `s` (R67). -/
def OutputsGrow (s t : State) : Prop := ∃ es, t.trace = s.trace ++ es ∧ ∀ e ∈ es, OutputInRange s e

/-- `t` is a state the block may go on to from `s`: it meets the invariant, sees the screen and the bitmap of `s`, and
has only appended outputs in range. -/
structure SoundStep (s t : State) : Prop where
  inv : t.Inv
  screen : t.screen = s.screen
  display : t.display = s.display
  outputs : OutputsGrow s t

theorem outputsGrow_of_trace_eq (h : t.trace = s.trace) : OutputsGrow s t :=
  ⟨[], by rw [h, List.append_nil], fun _ he => absurd he List.not_mem_nil⟩

theorem SoundStep.of_silent (hi : t.Inv) (hs : t.screen = s.screen) (hd : t.display = s.display)
    (ht : t.trace = s.trace) : SoundStep s t := ⟨hi, hs, hd, outputsGrow_of_trace_eq ht⟩

theorem SoundStep.refl (hi : s.Inv) : SoundStep s s := .of_silent hi rfl rfl rfl

/-- Whether an output is in range depends on the screen and the bitmap alone. -/
theorem outputInRange_congr (hs : t.screen = s.screen) (hd : t.display = s.display) (e : Output) :
    OutputInRange t e ↔ OutputInRange s e := by
  cases e <;> simp only [OutputInRange, hs, hd]

theorem SoundStep.trans (hst : SoundStep s t) (htu : SoundStep t u) : SoundStep s u := by
  obtain ⟨es, hes, hrange⟩ := hst.outputs
  obtain ⟨es', hes', hrange'⟩ := htu.outputs
  refine ⟨htu.inv, htu.screen.trans hst.screen, htu.display.trans hst.display, es ++ es', ?_, ?_⟩
  · rw [hes', hes, List.append_assoc]
  · intro e he
    rcases List.mem_append.mp he with h | h
    · exact hrange e h
    · exact (outputInRange_congr hst.screen hst.display e).mp (hrange' e h)

/-! The shared operations. -/

theorem emitOutputs_sound (hi : s.Inv) {es : List Output} (h : ∀ e ∈ es, OutputInRange s e) :
    SoundStep s (s.emitOutputs es) := ⟨hi, rfl, rfl, es, rfl, h⟩

theorem signal_sound (hi : s.Inv) (k : SignalKind) {id : Word} (hid : id ≠ 0) : SoundStep s (s.signal k id) :=
  emitOutputs_sound hi fun _ he => List.mem_singleton.mp he ▸ hid

/-- No register of a port is in the invariant. -/
theorem setPort_sound (hi : s.Inv) (n : PortName) (f : Port → Port) : SoundStep s (s.setPort n f) := by
  cases n <;> exact .of_silent hi rfl rfl rfl

theorem code_ne_zero (c : FaultCode) : c.code ≠ 0 := by cases c <;> decide

theorem code_le_six (c : FaultCode) : c.code.toNat ≤ 6 := by cases c <;> decide

/-- The fault transition leaves FAULT_CODE nonzero, in FAULTED (60_exceptions.md R362). -/
theorem takeFault_sound (hi : s.Inv) (c : FaultCode) : SoundStep s (s.takeFault c) := by
  obtain ⟨hdepth, hqueue, ⟨_, hcode⟩, hdirty, hmouse, hwake, hstorage⟩ := hi
  have hfault : (s.takeFault c).FaultInv := by
    dsimp only [State.FaultInv, State.takeFault]
    split
    · exact ⟨⟨fun _ => rfl, fun _ => code_ne_zero c⟩, code_le_six c⟩
    · exact ⟨⟨fun _ => rfl, fun _ => ‹_›⟩, hcode⟩
  exact .of_silent ⟨hdepth, hqueue, hfault, hdirty, hmouse, hwake, hstorage⟩ rfl rfl rfl

/-- A change of phase that neither enters nor leaves FAULTED. -/
theorem setPhase_sound (hi : s.Inv) (hs : s.seqPhase ≠ .faulted) {p : Phase} (hp : p ≠ .faulted) :
    SoundStep s { s with seqPhase := p } := by
  obtain ⟨hdepth, hqueue, ⟨hiff, hcode⟩, hdirty, hmouse, hwake, hstorage⟩ := hi
  have hfault : State.FaultInv { s with seqPhase := p } :=
    ⟨⟨fun h => absurd (hiff.mp h) hs, fun h => absurd h hp⟩, hcode⟩
  exact .of_silent ⟨hdepth, hqueue, hfault, hdirty, hmouse, hwake, hstorage⟩ rfl rfl rfl

theorem token_sound (hi : s.Inv) (k : TokenKind) (v : Word) : SoundStep s (s.token k v) := by
  unfold State.token
  exact setPort_sound hi _ _

/-! The queue and EmitGroup (43_input_queue.md, 40_event_codec.md). -/

theorem enqueue_sound (hi : s.Inv) (hsig : s.inSig ≠ 0) (hroom : s.qCount < s.cfg.qdepth) (w : Half) :
    SoundStep s (s.enqueue w) := by
  obtain ⟨hdepth, ⟨hhead, _, hq⟩, hrest⟩ := hi
  have hstored : SoundStep s { s with
      q := s.q.write ((s.qHead + s.qCount) % s.cfg.qdepth) w, qCount := s.qCount + 1 } :=
    .of_silent ⟨hdepth, ⟨hhead, hroom, Cells.wf_write _ hq⟩, hrest⟩ rfl rfl rfl
  unfold State.enqueue
  dsimp only
  split
  · exact hstored.trans (signal_sound hstored.inv _ hsig)
  · exact hstored

theorem enqueueAll_sound (hi : s.Inv) (hsig : s.inSig ≠ 0) (ws : List Half)
    (hroom : s.qCount + ws.length ≤ s.cfg.qdepth) : SoundStep s (s.enqueueAll ws) := by
  induction ws generalizing s with
  | nil => exact .refl hi
  | cons w ws ih =>
    rw [List.length_cons] at hroom
    have hw := enqueue_sound hi hsig (by omega) w
    refine hw.trans (ih hw.inv ?_ ?_)
    · rwa [State.enqueue_inSig]
    · rw [State.enqueue_qCount, State.enqueue_cfg]
      omega

theorem dequeue_sound (hi : s.Inv) : SoundStep s s.dequeue := by
  obtain ⟨hdepth, ⟨_, hcount, hq⟩, hrest⟩ := hi
  exact .of_silent ⟨hdepth, ⟨Nat.mod_lt _ (by omega), (Nat.sub_le _ _).trans hcount, hq⟩, hrest⟩ rfl rfl rfl

theorem emitGroup_sound {events : List Event} (hi : s.Inv) (h : emitGroup events s = .ok t) : SoundStep s t := by
  rcases emitGroup_cases h with ⟨_, h⟩ | ⟨_, _, h⟩ | ⟨_, _, _, h⟩ | ⟨_, _, _, _, h⟩ | ⟨_, hsig, _, hroom, h⟩
  · cases h; exact .refl hi
  · cases h
  · cases h
  · cases h; exact .of_silent hi rfl rfl rfl
  · cases h
    have hall := enqueueAll_sound hi hsig _ hroom
    exact hall.trans (.of_silent hall.inv rfl rfl rfl)

theorem emit_sound {type param : Word} (hi : s.Inv) (h : emit type param s = .ok t) : SoundStep s t :=
  emitGroup_sound hi (emitGroup_of_emit_ok h)

theorem qPop_sound (hi : s.Inv) : SoundStep s (qPop s) := by
  unfold qPop
  split
  · exact setPort_sound hi _ _
  · exact (dequeue_sound hi).trans (setPort_sound (dequeue_sound hi).inv _ _)

/-! The keyboard and the mouse (41_keyboard.md, 42_mouse.md). -/

theorem keyRaw_sound {scan mods : Word} (hi : s.Inv) (h : keyRaw scan mods s = .ok t) : SoundStep s t := by
  obtain ⟨events, h⟩ := emitGroup_of_keyRaw_ok h
  have hmods : SoundStep s { s with
      modState := mods.setWidth 8, caps := rawKeyCaps s.cfg s.caps scan.toNat } := .of_silent hi rfl rfl rfl
  exact hmods.trans (emitGroup_sound hmods.inv h)

theorem keyCooked_sound {b f : Word} (hi : s.Inv) (h : keyCooked b f s = .ok t) : SoundStep s t :=
  let ⟨_, h⟩ := emitGroup_of_keyCooked_ok h
  emitGroup_sound hi h

theorem keySubStep_sound {k : KeyReport} (hi : s.Inv) (h : keySubStep k s = .ok t) : SoundStep s t := by
  unfold keySubStep at h
  split at h
  · exact keyRaw_sound hi h
  · exact keyCooked_sound hi h

theorem keySubSteps_sound (hi : s.Inv) (ks : List KeyReport) : SoundStep s (keySubSteps ks s).1 :=
  keySubSteps_induct (P := SoundStep s) (fun _ _ _ hs h => hs.trans (keySubStep_sound hs.inv h)) ks s (.refl hi)

theorem sampleButtons_sound (hi : s.Inv) (mask : Word) : SoundStep s (s.sampleButtons mask) :=
  .of_silent hi rfl rfl rfl

/-- A position whose events are in range is in range: it is reported, or it is the last one reported (R213). -/
theorem position_le_of_motionEvents {x y : Word} (hm : s.MouseInv) (h : ∀ e ∈ s.motionEvents x y, e.param ≤ 4095) :
    x.toNat ≤ 4095 ∧ y.toNat ≤ 4095 := by
  obtain ⟨hx, hy, _, _⟩ := hm
  by_cases hr : s.motionReported x y = true
  · rw [State.motionEvents, if_pos hr] at h
    exact ⟨h ⟨1, x.toNat⟩ (by simp), h ⟨1, y.toNat⟩ (by simp)⟩
  · have hxy : x = s.lastMx.setWidth 32 ∧ y = s.lastMy.setWidth 32 := by
      simp only [State.motionReported, Bool.or_eq_true, not_or, bne_iff_ne, ne_eq, not_not] at hr
      exact ⟨hr.1.2, hr.2⟩
    rw [hxy.1, hxy.2, BitVec.toNat_setWidth_of_le (by omega), BitVec.toNat_setWidth_of_le (by omega)]
    exact ⟨hx, hy⟩

theorem samplePosition_sound (hi : s.Inv) {x y : Word} (h : x.toNat ≤ 4095 ∧ y.toNat ≤ 4095) :
    SoundStep s (s.samplePosition x y) := by
  obtain ⟨hdepth, hqueue, hfault, hdirty, ⟨hx, hy, _, _⟩, hrest⟩ := hi
  have hx' : (x.setWidth 16).toNat ≤ 4095 := by rw [BitVec.toNat_setWidth]; omega
  have hy' : (y.setWidth 16).toNat ≤ 4095 := by rw [BitVec.toNat_setWidth]; omega
  unfold State.samplePosition
  split
  · exact .of_silent ⟨hdepth, hqueue, hfault, hdirty, ⟨hx', hy', hx', hy'⟩, hrest⟩ rfl rfl rfl
  · exact .of_silent ⟨hdepth, hqueue, hfault, hdirty, ⟨hx, hy, hx', hy'⟩, hrest⟩ rfl rfl rfl

theorem mouseButtons_sound {mask : Word} (hi : s.Inv) (h : mouseButtons mask s = .ok t) : SoundStep s t :=
  (sampleButtons_sound hi mask).trans (emitGroup_sound (s := s.sampleButtons mask) hi h)

theorem mouseMotion_sound {x y : Word} (hi : s.Inv) (h : mouseMotion x y s = .ok t) : SoundStep s t := by
  have ⟨_, _, _, _, hmouse, _⟩ := hi
  have hp := samplePosition_sound hi (position_le_of_motionEvents hmouse (param_le_of_emitGroup_ok h))
  exact hp.trans (emitGroup_sound hp.inv h)

theorem mousePoll_sound {x y mask : Word} (hi : s.Inv) (h : mousePoll x y mask s = .ok t) : SoundStep s t := by
  have ⟨_, _, _, _, hmouse, _⟩ := hi
  have hp := samplePosition_sound hi (position_le_of_motionEvents hmouse fun e he =>
    param_le_of_emitGroup_ok h e (List.mem_append_left _ he))
  have hb := hp.trans (sampleButtons_sound hp.inv mask)
  exact hb.trans (emitGroup_sound hb.inv h)

/-! The dirty-region tracker (44_dirty_rect.md). -/

theorem union_right (a b : Rect) : (a.union b).x + (a.union b).w = max (a.x + a.w) (b.x + b.w) := by
  simp only [Rect.union]
  omega

theorem union_bottom (a b : Rect) : (a.union b).y + (a.union b).h = max (a.y + a.h) (b.y + b.h) := by
  simp only [Rect.union]
  omega

theorem setDirty_sound (hi : s.Inv) {r : Rect} (hx : r.x + r.w ≤ 65535) (hy : r.y + r.h ≤ 65535) :
    SoundStep s (s.setDirty r) := by
  obtain ⟨hdepth, hqueue, hfault, _, hrest⟩ := hi
  have hdirty : (s.setDirty r).DirtyInv := by
    simp only [State.DirtyInv, State.setDirty, BitVec.toNat_ofNat]
    omega
  exact .of_silent ⟨hdepth, hqueue, hfault, hdirty, hrest⟩ rfl rfl rfl

/-- A union's edges are among those of its parts, and both of these fit 16 bits (R252, R253). -/
theorem reportDamage_sound {r : Rect} (hi : s.Inv) (h : reportDamage r s = .ok t) : SoundStep s t := by
  have ⟨_, _, _, ⟨hdx, hdy⟩, _⟩ := hi
  have hw := s.display.w.isLt
  have hh := s.display.h.isLt
  obtain ⟨hx, hy, rfl | rfl⟩ := reportDamage_ok h
  · exact setDirty_sound hi (by omega) (by omega)
  · refine setDirty_sound hi ?_ ?_
    · rw [union_right]
      exact max_le hdx (by omega)
    · rw [union_bottom]
      exact max_le hdy (by omega)

theorem clearDirty_sound (hi : s.Inv) : SoundStep s s.clearDirty := by
  obtain ⟨hdepth, hqueue, hfault, _, hrest⟩ := hi
  have hdirty : s.clearDirty.DirtyInv := ⟨Nat.zero_le _, Nat.zero_le _⟩
  exact .of_silent ⟨hdepth, hqueue, hfault, hdirty, hrest⟩ rfl rfl rfl

/-! The blitter (45_blitter.md). -/

theorem lt_limit_of_mem_clampedRange {a lo hi limit : Nat} (h : a ∈ clampedRange lo hi limit) : a < limit := by
  rw [clampedRange, List.mem_range'_1] at h
  omega

/-- A word index by row and word column lies inside the bitmap (20_memory.md R82, R83). -/
theorem wordIndex_lt {row wc wpr rows : Nat} (hr : row < rows) (hc : wc < wpr) : row * wpr + wc < wpr * rows :=
  calc row * wpr + wc < row * wpr + wpr := Nat.add_lt_add_left hc _
    _ = wpr * (row + 1) := by ring
    _ ≤ wpr * rows := Nat.mul_le_mul_left _ hr

theorem pixelAt_inRange {col row : Nat} {colour : Word} : ∀ e ∈ s.pixelAt col row colour, OutputInRange s e := by
  unfold State.pixelAt
  split
  · simp
  · split
    · simp
    · intro e he
      rw [List.mem_singleton.mp he]
      simp only [OutputInRange]
      omega

theorem blitWord_inRange {row wc : Nat} (hh : s.display.handle ≠ 0) (hr : row < s.display.h.toNat)
    (hc : wc < s.wpr) : ∀ e ∈ s.blitWord row wc, OutputInRange s e := by
  intro e he
  rcases List.mem_cons.mp he with rfl | he
  · exact ⟨rfl, hh, wordIndex_lt hr hc⟩
  · obtain ⟨k, _, hk⟩ := List.mem_flatMap.mp he
    exact pixelAt_inRange e hk

theorem blitOutputs_inRange (r : Rect) : ∀ e ∈ s.blitOutputs r, OutputInRange s e := by
  unfold State.blitOutputs
  split
  · simp
  · intro e he
    obtain ⟨row, hrow, he⟩ := List.mem_flatMap.mp he
    obtain ⟨wc, hwc, he⟩ := List.mem_flatMap.mp he
    exact blitWord_inRange ‹_› (lt_limit_of_mem_clampedRange hrow) (lt_limit_of_mem_clampedRange hwc) e he

theorem stampOutputs_inRange (cx cy : Nat) : ∀ e ∈ s.stampOutputs cx cy, OutputInRange s e := by
  intro e he
  obtain ⟨r, _, he⟩ := List.mem_flatMap.mp he
  obtain ⟨c, _, he⟩ := List.mem_flatMap.mp he
  split at he
  · exact pixelAt_inRange e he
  · cases he

theorem cursorOutputs_inRange : ∀ e ∈ s.cursorOutputs, OutputInRange s e := by
  intro e he
  rcases List.mem_append.mp he with he | he
  · exact blitOutputs_inRange _ e he
  · exact stampOutputs_inRange _ _ e he

theorem calcOffsets_sound (hi : s.Inv) : SoundStep s (calcOffsets s) := by
  unfold calcOffsets
  split <;> exact .of_silent hi rfl rfl rfl

theorem blitRect_sound (hi : s.Inv) (r : Rect) : SoundStep s (blitRect r s) :=
  emitOutputs_sound hi (blitOutputs_inRange r)

theorem cursorUpdate_sound (hi : s.Inv) : SoundStep s (cursorUpdate s) := by
  unfold cursorUpdate
  split
  · exact .refl hi
  · have hdrawn := emitOutputs_sound hi cursorOutputs_inRange
    exact hdrawn.trans (.of_silent hdrawn.inv rfl rfl rfl)

theorem renderPass_sound (hi : s.Inv) : SoundStep s (renderPass s) := by
  unfold renderPass
  split
  · exact .refl hi
  · have hblit := (clearDirty_sound hi).trans (blitRect_sound (clearDirty_sound hi).inv s.dirty)
    exact hblit.trans (cursorUpdate_sound hblit.inv)

/-! The scheduled wake and the control registers (46_sequencer.md, 47_control.md). -/

theorem clearWake_sound (hi : s.Inv) : SoundStep s s.clearWake := by
  obtain ⟨hdepth, hqueue, hfault, hdirty, hmouse, _, hstorage⟩ := hi
  have hwake : s.clearWake.WakeInv := ⟨fun _ => ⟨rfl, rfl⟩, nofun⟩
  exact .of_silent ⟨hdepth, hqueue, hfault, hdirty, hmouse, hwake, hstorage⟩ rfl rfl rfl

theorem setWake_sound (hi : s.Inv) (signal tick : Word) : SoundStep s (setWake signal tick s) := by
  unfold setWake
  split
  · exact clearWake_sound hi
  · obtain ⟨hdepth, hqueue, hfault, hdirty, hmouse, _, hstorage⟩ := hi
    have hwake : State.WakeInv { s with swPending := true, swSignal := signal, swTick := tick } :=
      ⟨nofun, fun _ => ‹_›⟩
    exact .of_silent ⟨hdepth, hqueue, hfault, hdirty, hmouse, hwake, hstorage⟩ rfl rfl rfl

/-- The timer signal has an id, since a pending wake has a target (R322). -/
theorem checkWake_sound (hi : s.Inv) : SoundStep s (checkWake s) := by
  unfold checkWake
  split
  · have ⟨_, _, _, _, _, ⟨_, htarget⟩, _⟩ := hi
    have hdrawn : SoundStep s { s with clock := s.clock.sampleTick.2 } := .of_silent hi rfl rfl rfl
    dsimp only
    split
    · have hsignal := hdrawn.trans (signal_sound hdrawn.inv .timer (htarget ‹_›))
      exact hsignal.trans (clearWake_sound hsignal.inv)
    · exact hdrawn
  · exact .refl hi

theorem csrRead_sound {index : Word} (hi : s.Inv) (h : csrRead index s = .ok t) : SoundStep s t := by
  obtain rfl | ⟨v, rfl⟩ := csrRead_ok h
  · exact .refl hi
  · exact setPort_sound hi _ _

theorem setCtrl_sound (hi : s.Inv) (v : Word) : SoundStep s { s with ctrl := v &&& ctrlMask } := by
  obtain ⟨hdepth, hqueue, hfault, hdirty, hmouse, hwake, _, hwords⟩ := hi
  have hctrl : v &&& ctrlMask &&& ctrlMask = v &&& ctrlMask := by rw [BitVec.and_assoc, BitVec.and_self]
  exact .of_silent ⟨hdepth, hqueue, hfault, hdirty, hmouse, hwake, hctrl, hwords⟩ rfl rfl rfl

theorem csrWrite_sound {index value : Word} (hi : s.Inv) (h : csrWrite index value s = .ok t) : SoundStep s t := by
  obtain ⟨_, _, _, _, _, _, _, _, rfl, rfl | rfl⟩ := csrWrite_ok h
  · exact .of_silent hi rfl rfl rfl
  · exact (setCtrl_sound hi value).trans (.of_silent (setCtrl_sound hi value).inv rfl rfl rfl)

/-! The stream decoder (40_event_codec.md R150). -/

theorem decoded_sound (hi : s.Inv) (phase : DecPhase) (high : Half) (xy err : Bool) (k : TokenKind) (v : Word) :
    SoundStep s (s.decoded phase high xy err k v) := by
  have hwritten : SoundStep s { s with decPhase := phase, decHi := high, decXy := xy, decErr := err } :=
    .of_silent hi rfl rfl rfl
  exact hwritten.trans (token_sound hwritten.inv k v)

/-! Every rule, every instruction, every internal step. -/

/-- FAULTED accepts commands of class A alone (46_sequencer.md R312). -/
theorem not_faulted_of_accepts {p : Phase} {c : CmdClass} (h : p.accepts c = true) (hc : c ≠ .A) : p ≠ .faulted := by
  rintro rfl
  exact hc (beq_iff_eq.mp h)

theorem terminate_sound (hi : s.Inv) (hs : s.seqPhase ≠ .faulted) : SoundStep s (terminate s) := by
  have hflag : SoundStep s { s with termFlag := true } := .of_silent hi rfl rfl rfl
  refine hflag.trans (setPhase_sound hflag.inv hs ?_)
  split <;> exact nofun

/-- An accepted rule that stands is sound. -/
theorem ruleOf_sound {i : Instr} (hi : s.Inv) (ha : s.seqPhase.accepts i.cls = true) (h : ruleOf i s = .ok t) :
    SoundStep s t := by
  cases i
  case csrRead => exact csrRead_sound hi h
  case csrWrite => exact csrWrite_sound hi h
  case emit => exact emit_sound hi h
  case keyRaw => exact keyRaw_sound hi h
  case keyCooked => exact keyCooked_sound hi h
  case mouseMotion => exact mouseMotion_sound hi h
  case mouseButtons => exact mouseButtons_sound hi h
  case mousePoll => exact mousePoll_sound hi h
  case reportDamage => exact reportDamage_sound hi h
  case decWord | tsDelta | coord | down | up | tsAbs | reservedType2 | reservedType67 | reservedType815 =>
    obtain ⟨phase, high, xy, err, k, v, rfl⟩ := ruleOf_of_feedsDecoder rfl h
    exact decoded_sound hi phase high xy err k v
  all_goals cases h
  case nop => exact .refl hi
  case decReset | setInputSignal => exact .of_silent hi rfl rfl rfl
  case frame => exact setPhase_sound hi (not_faulted_of_accepts ha (by decide)) nofun
  case terminate => exact terminate_sound hi (not_faulted_of_accepts ha (by decide))
  case calcOffsets => exact calcOffsets_sound hi
  case checkWake => exact checkWake_sound hi
  case qPop => exact qPop_sound hi
  case setWake => exact setWake_sound hi _ _
  case drTake => exact (clearDirty_sound hi).trans (setPort_sound (clearDirty_sound hi).inv _ _)
  case blitRect => exact blitRect_sound hi _
  case cursorUpdate => exact cursorUpdate_sound hi
  case render => exact renderPass_sound hi

theorem exec_sound {i : Instr} (hi : s.Inv) (h : exec i s = .next t) : SoundStep s t := by
  rw [exec_eq_issue] at h
  rcases issue_cases h with ⟨ha, hr⟩ | ⟨e, _, _, rfl⟩ | ⟨_, _, rfl⟩ | ⟨_, _, rfl⟩
  · exact ruleOf_sound hi ha hr
  · exact takeFault_sound hi e
  · exact takeFault_sound hi .illegalCmd
  · exact .refl hi

theorem issueIllegal_sound (hi : s.Inv) (h : issueIllegal s = .next t) : SoundStep s t := by
  unfold issueIllegal at h
  cases hp : s.seqPhase <;> rw [hp] at h <;> cases h
  case idle | run => exact takeFault_sound hi .illegalCmd
  all_goals exact .refl hi

theorem acceptAt_sound {n : PortName} (hi : s.Inv) (h : acceptAt n s = .next t) : SoundStep s t := by
  unfold acceptAt at h
  split at h
  · have haccepted : SoundStep s (s.accept n) := setPort_sound hi _ _
    unfold runCommand at h
    split at h
    · exact haccepted.trans (exec_sound haccepted.inv h)
    · exact haccepted.trans (issueIllegal_sound haccepted.inv h)
  · cases h; exact .refl hi

theorem offsetsStep_sound (hi : s.Inv) (hs : s.seqPhase ≠ .faulted) : SoundStep s (offsetsStep s) := by
  have hoffsets := calcOffsets_sound hi
  refine hoffsets.trans (setPhase_sound hoffsets.inv ?_ nofun)
  rwa [seqPhase_of_context (calcOffsets_context s)]

theorem pollStep_sound (hi : s.Inv) (hs : s.seqPhase ≠ .faulted) : SoundStep s (pollStep s) := by
  have htaken : SoundStep s { s with kbd := [] } := .of_silent hi rfl rfl rfl
  have hkeys := htaken.trans (keySubSteps_sound htaken.inv s.kbd)
  have hcontext := keySubSteps_context s.kbd { s with kbd := [] }
  obtain ⟨t, rfl, ⟨c, hpoll⟩ | ⟨u, hu, hpoll⟩⟩ := pollStep_cases s <;> rw [hpoll]
  · exact hkeys.trans (takeFault_sound hkeys.inv c)
  · have hmouse := hkeys.trans (mousePoll_sound hkeys.inv hu)
    refine hmouse.trans (setPhase_sound hmouse.inv ?_ nofun)
    rwa [seqPhase_of_context (mousePoll_context hu), seqPhase_of_context hcontext]

theorem wakeStep_sound (hi : s.Inv) (hs : s.seqPhase ≠ .faulted) : SoundStep s (wakeStep s) := by
  have hwake := checkWake_sound hi
  have hrequest := hwake.trans (emitOutputs_sound hwake.inv (es := [.runRequest s.cyclesPerFrame]) fun _ he =>
    List.mem_singleton.mp he ▸ trivial)
  refine hrequest.trans (setPhase_sound hrequest.inv ?_ nofun)
  rwa [State.emitOutputs_seqPhase, seqPhase_of_context (checkWake_context s)]

theorem termchkStep_sound (hi : s.Inv) (hs : s.seqPhase ≠ .faulted) : SoundStep s (termchkStep s) := by
  unfold termchkStep
  split <;> exact setPhase_sound hi hs nofun

theorem renderStep_sound (hi : s.Inv) (hs : s.seqPhase ≠ .faulted) : SoundStep s (renderStep s) := by
  have hpass := renderPass_sound hi
  have hphase : (renderPass s).seqPhase ≠ .faulted := by rwa [seqPhase_of_context (renderPass_context s)]
  unfold renderStep
  dsimp only
  split
  · exact hpass.trans (setPhase_sound hpass.inv hphase nofun)
  · have hdelay := hpass.trans (setPhase_sound hpass.inv hphase (p := .delay) nofun)
    exact hdelay.trans (.of_silent hdelay.inv rfl rfl rfl)

theorem delayStep_sound (hi : s.Inv) (hs : s.seqPhase ≠ .faulted) : SoundStep s (delayStep s) := by
  have hdrawn : SoundStep s { s with clock := s.clock.sampleTick.2 } := .of_silent hi rfl rfl rfl
  unfold delayStep
  dsimp only
  split
  · exact hdrawn.trans (setPhase_sound hdrawn.inv hs nofun)
  · exact hdrawn

/-- The block's own transition, an internal step or a command (46_sequencer.md R311). -/
theorem blockStep_sound (hi : s.Inv) (h : blockStep s = .next t) : SoundStep s t := by
  unfold blockStep at h
  cases hp : s.seqPhase <;> rw [hp] at h
  case idle | run | terminated | faulted => exact acceptAt_sound hi h
  all_goals
    have hs : s.seqPhase ≠ .faulted := by rw [hp]; exact nofun
    cases h
  case offsets => exact offsetsStep_sound hi hs
  case poll => exact pollStep_sound hi hs
  case wake => exact wakeStep_sound hi hs
  case termchk => exact termchkStep_sound hi hs
  case render => exact renderStep_sound hi hs
  case delay => exact delayStep_sound hi hs

/-! Reset, the outside world's moves, and the step. -/

/-- R69, R70: every register that the invariant bounds is 0 at reset. -/
theorem resetOf_inv {cfg : Config} (hdepth : 16 ≤ cfg.qdepth) : (State.resetOf cfg).Inv := by
  have hhead : 0 < cfg.qdepth := by omega
  exact ⟨hdepth, ⟨hhead, Nat.zero_le _, rfl⟩, ⟨by simp [State.resetOf], Nat.zero_le _⟩,
    ⟨Nat.zero_le _, Nat.zero_le _⟩, ⟨Nat.zero_le _, Nat.zero_le _, Nat.zero_le _, Nat.zero_le _⟩,
    ⟨fun _ => ⟨rfl, rfl⟩, nofun⟩, BitVec.zero_and, rfl⟩

/-- The reset state meets the invariant of R70, whatever the queue's storage and the bitmap of the block it resets. -/
theorem assertReset_inv (hi : s.Inv) : s.assertReset.Inv := by
  have ⟨hdepth, ⟨_, _, hq⟩, _, _, _, _, _, hwords⟩ := hi
  obtain ⟨_, ⟨hhead, hcount, _⟩, hfault, hdirty, hmouse, hwake, hctrl, _⟩ := resetOf_inv hdepth
  exact ⟨hdepth, ⟨hhead, hcount, hq⟩, hfault, hdirty, hmouse, hwake, hctrl, hwords⟩

/-- A move that can happen keeps the invariant, and if it is not reset the outputs grow within range. A change of the
screen or the bitmap appends none. -/
theorem apply_sound {m : Move} (hi : s.Inv) (hr : m.ready s = true) (h : m.apply s = .next t) :
    t.Inv ∧ (m ≠ .reset → OutputsGrow s t) := by
  cases m
  case block => exact ⟨(blockStep_sound hi h).inv, fun _ => (blockStep_sound hi h).outputs⟩
  all_goals cases h
  case hostCommand c | peerCommand c =>
    exact ⟨(setPort_sound hi _ _).inv, fun _ => (setPort_sound hi _ _).outputs⟩
  case runDone =>
    have hdone : SoundStep s (runDoneStep s) :=
      setPhase_sound hi (by rw [run_of_ready_runDone hr]; exact nofun) nofun
    exact ⟨hdone.inv, fun _ => hdone.outputs⟩
  case reset => exact ⟨assertReset_inv hi, fun h => absurd rfl h⟩
  case ticks | walls | keys | mouse | screen => exact ⟨hi, fun _ => outputsGrow_of_trace_eq rfl⟩
  case display h w ht l =>
    obtain ⟨hdepth, hqueue, hfault, hdirty, hmouse, hwake, hctrl, _⟩ := hi
    exact ⟨⟨hdepth, hqueue, hfault, hdirty, hmouse, hwake, hctrl, Cells.wf_ofList l⟩,
      fun _ => outputsGrow_of_trace_eq rfl⟩

/-- What every step does: the invariant is kept, and but for reset the outputs grow within range. -/
theorem step_sound (hi : s.Inv) (h : step s = .next t) :
    t.Inv ∧ (s.schedule.head? ≠ some .reset → OutputsGrow s t) := by
  rcases step_cases h with h | ⟨m, rest, hm, hr, ha⟩
  · exact ⟨(blockStep_sound hi h).inv, fun _ => (blockStep_sound hi h).outputs⟩
  · obtain ⟨hinv, hgrow⟩ := apply_sound (s := { s with schedule := rest }) hi hr ha
    exact ⟨hinv, fun hne => hgrow fun hreset => hne (by rw [hm, hreset]; rfl)⟩

/-- Settles O17, by the soundness of every step. -/
theorem stepKeepsTheInvariant : Obligations.StepKeepsTheInvariant :=
  fun _ _ hi h => (step_sound hi h).1

/-- Settles O18, by the soundness of every step. -/
theorem stepAppendsOutputsInRange : Obligations.StepAppendsOutputsInRange :=
  fun _ _ hi hne h => (step_sound hi h).2 hne

/-- Settles O15: the storage left is that before the reset. -/
theorem resetWritesEveryRegister : Obligations.ResetWritesEveryRegister :=
  fun s _ h => ⟨s.q, step_of_reset h⟩

/-- Settles O16. -/
theorem resetMeetsTheInvariant : Obligations.ResetMeetsTheInvariant :=
  fun _ hlegal => resetOf_inv hlegal.1

end Sys2Proof.Machine
end

section
/-! The state family (10_state.md), part 3: what a command leaves unchanged, in the sticky registers and in the
ports. -/

namespace Sys2Proof.Machine

open Sys2Proof.Claims

variable {s t u : State}

/-! MOD_STATE, CAPS, TERM_FLAG and TS_VALID (R36, R40, R41, R53). -/

/-- `t` has MOD_STATE, CAPS and TERM_FLAG of `s`, and TS_VALID where `s` has it. -/
structure KeepsSticky (s t : State) : Prop where
  modState : t.modState = s.modState
  caps : t.caps = s.caps
  termFlag : t.termFlag = s.termFlag
  tsValid : s.tsValid = true → t.tsValid = true

theorem KeepsSticky.refl (s : State) : KeepsSticky s s := ⟨rfl, rfl, rfl, id⟩

theorem KeepsSticky.trans (hst : KeepsSticky s t) (htu : KeepsSticky t u) : KeepsSticky s u :=
  ⟨htu.modState.trans hst.modState, htu.caps.trans hst.caps, htu.termFlag.trans hst.termFlag,
    htu.tsValid ∘ hst.tsValid⟩

theorem setPort_keepsSticky (s : State) (n : PortName) (f : Port → Port) : KeepsSticky s (s.setPort n f) := by
  cases n <;> exact ⟨rfl, rfl, rfl, id⟩

theorem token_keepsSticky (s : State) (k : TokenKind) (v : Word) : KeepsSticky s (s.token k v) := by
  unfold State.token
  exact setPort_keepsSticky s _ _

theorem emitGroup_keepsSticky {events : List Event} (h : emitGroup events s = .ok t) : KeepsSticky s t := by
  rcases emitGroup_cases h with ⟨_, h⟩ | ⟨_, _, h⟩ | ⟨_, _, _, h⟩ | ⟨_, _, _, _, h⟩ | ⟨_, _, _, _, h⟩ <;> cases h
  · exact .refl s
  · exact ⟨rfl, rfl, rfl, id⟩
  · exact ⟨State.enqueueAll_modState .., State.enqueueAll_caps .., State.enqueueAll_termFlag ..,
      fun hv => foldl_add_tsValid events hv⟩

theorem emit_keepsSticky {type param : Word} (h : emit type param s = .ok t) : KeepsSticky s t :=
  emitGroup_keepsSticky (emitGroup_of_emit_ok h)

/-- KEY_RAW writes MOD_STATE and CAPS before EmitGroup, and not TERM_FLAG or TS_VALID. -/
theorem keyRaw_keepsSticky {scan mods : Word} (h : keyRaw scan mods s = .ok t) :
    t.termFlag = s.termFlag ∧ (s.tsValid = true → t.tsValid = true) :=
  let ⟨_, h⟩ := emitGroup_of_keyRaw_ok h
  ⟨(emitGroup_keepsSticky h).termFlag, (emitGroup_keepsSticky h).tsValid⟩

theorem keyCooked_keepsSticky {b f : Word} (h : keyCooked b f s = .ok t) : KeepsSticky s t :=
  let ⟨_, h⟩ := emitGroup_of_keyCooked_ok h
  emitGroup_keepsSticky h

theorem samplePosition_keepsSticky (s : State) (x y : Word) : KeepsSticky s (s.samplePosition x y) := by
  unfold State.samplePosition
  split <;> exact ⟨rfl, rfl, rfl, id⟩

theorem sampleButtons_keepsSticky (s : State) (mask : Word) : KeepsSticky s (s.sampleButtons mask) :=
  ⟨rfl, rfl, rfl, id⟩

theorem csrRead_keepsSticky {index : Word} (h : csrRead index s = .ok t) : KeepsSticky s t := by
  obtain rfl | ⟨v, rfl⟩ := csrRead_ok h
  · exact .refl _
  · exact setPort_keepsSticky s _ _

theorem csrWrite_keepsSticky {index value : Word} (h : csrWrite index value s = .ok t) : KeepsSticky s t := by
  obtain ⟨_, _, _, _, _, _, _, _, rfl, _⟩ := csrWrite_ok h
  exact ⟨rfl, rfl, rfl, id⟩

theorem decoded_keepsSticky (s : State) (phase : DecPhase) (high : Half) (xy err : Bool) (k : TokenKind) (v : Word) :
    KeepsSticky s (s.decoded phase high xy err k v) := by
  have hwritten : KeepsSticky s { s with decPhase := phase, decHi := high, decXy := xy, decErr := err } :=
    ⟨rfl, rfl, rfl, id⟩
  exact hwritten.trans (token_keepsSticky _ k v)

theorem qPop_keepsSticky (s : State) : KeepsSticky s (qPop s) := by
  unfold qPop
  split
  · exact setPort_keepsSticky s _ _
  · exact KeepsSticky.trans (t := s.dequeue) ⟨rfl, rfl, rfl, id⟩ (setPort_keepsSticky _ _ _)

theorem reportDamage_keepsSticky {r : Rect} (h : reportDamage r s = .ok t) : KeepsSticky s t := by
  obtain ⟨_, _, rfl | rfl⟩ := reportDamage_ok h <;> exact ⟨rfl, rfl, rfl, id⟩

theorem calcOffsets_keepsSticky (s : State) : KeepsSticky s (calcOffsets s) := by
  unfold calcOffsets
  split <;> exact ⟨rfl, rfl, rfl, id⟩

theorem cursorUpdate_keepsSticky (s : State) : KeepsSticky s (cursorUpdate s) := by
  unfold cursorUpdate
  split <;> exact ⟨rfl, rfl, rfl, id⟩

theorem renderPass_keepsSticky (s : State) : KeepsSticky s (renderPass s) := by
  unfold renderPass
  split
  · exact .refl s
  · have hblit : KeepsSticky s (blitRect s.dirty s.clearDirty) := ⟨rfl, rfl, rfl, id⟩
    exact hblit.trans (cursorUpdate_keepsSticky _)

theorem setWake_keepsSticky (s : State) (signal tick : Word) : KeepsSticky s (setWake signal tick s) := by
  unfold setWake
  split <;> exact ⟨rfl, rfl, rfl, id⟩

theorem checkWake_keepsSticky (s : State) : KeepsSticky s (checkWake s) := by
  unfold checkWake
  split
  · dsimp only
    split <;> exact ⟨rfl, rfl, rfl, id⟩
  · exact .refl s

theorem ruleOf_keepsSticky {i : Instr} (hk : i ≠ .keyRaw) (ht : i ≠ .terminate) (h : ruleOf i s = .ok t) :
    KeepsSticky s t := by
  cases i
  case keyRaw => exact absurd rfl hk
  case terminate => exact absurd rfl ht
  case csrRead => exact csrRead_keepsSticky h
  case csrWrite => exact csrWrite_keepsSticky h
  case emit => exact emit_keepsSticky h
  case keyCooked => exact keyCooked_keepsSticky h
  case mouseMotion => exact (samplePosition_keepsSticky s _ _).trans (emitGroup_keepsSticky h)
  case mouseButtons => exact (sampleButtons_keepsSticky s _).trans (emitGroup_keepsSticky h)
  case mousePoll =>
    exact ((samplePosition_keepsSticky s _ _).trans (sampleButtons_keepsSticky _ _)).trans (emitGroup_keepsSticky h)
  case reportDamage => exact reportDamage_keepsSticky h
  case decWord | tsDelta | coord | down | up | tsAbs | reservedType2 | reservedType67 | reservedType815 =>
    obtain ⟨phase, high, xy, err, k, v, rfl⟩ := ruleOf_of_feedsDecoder rfl h
    exact decoded_keepsSticky s phase high xy err k v
  all_goals cases h
  case nop => exact .refl s
  case frame | decReset | setInputSignal | blitRect => exact ⟨rfl, rfl, rfl, id⟩
  case calcOffsets => exact calcOffsets_keepsSticky s
  case checkWake => exact checkWake_keepsSticky s
  case qPop => exact qPop_keepsSticky s
  case setWake => exact setWake_keepsSticky s _ _
  case drTake => exact KeepsSticky.trans (t := s.clearDirty) ⟨rfl, rfl, rfl, id⟩ (setPort_keepsSticky _ _ _)
  case cursorUpdate => exact cursorUpdate_keepsSticky s
  case render => exact renderPass_keepsSticky s

theorem exec_keepsSticky {i : Instr} (hk : i ≠ .keyRaw) (ht : i ≠ .terminate) (h : exec i s = .next t) :
    KeepsSticky s t := by
  rw [exec_eq_issue] at h
  rcases issue_cases h with ⟨_, hr⟩ | ⟨_, _, _, rfl⟩ | ⟨_, _, rfl⟩ | ⟨_, _, rfl⟩
  · exact ruleOf_keepsSticky hk ht hr
  · exact ⟨rfl, rfl, rfl, id⟩
  · exact ⟨rfl, rfl, rfl, id⟩
  · exact .refl _

theorem exec_keyRaw_keepsSticky (h : exec .keyRaw s = .next t) :
    t.termFlag = s.termFlag ∧ (s.tsValid = true → t.tsValid = true) := by
  rw [exec_eq_issue] at h
  rcases issue_cases h with ⟨_, hr⟩ | ⟨_, _, _, rfl⟩ | ⟨_, _, rfl⟩ | ⟨_, _, rfl⟩
  · exact keyRaw_keepsSticky hr
  all_goals exact ⟨rfl, id⟩

theorem exec_terminate_keepsSticky (h : exec .terminate s = .next t) :
    t.modState = s.modState ∧ t.caps = s.caps ∧ t.tsValid = s.tsValid := by
  rw [exec_eq_issue] at h
  rcases issue_cases h with ⟨_, hr⟩ | ⟨_, _, _, rfl⟩ | ⟨_, _, rfl⟩ | ⟨_, _, rfl⟩
  · cases hr; exact ⟨rfl, rfl, rfl⟩
  all_goals exact ⟨rfl, rfl, rfl⟩

/-- Settles O22: KEY_RAW and TERMINATE apart, every command keeps all four. -/
theorem stickyStateHasOneWriter : Obligations.StickyStateHasOneWriter := by
  intro i s t h
  by_cases hk : i = .keyRaw
  · subst hk
    obtain ⟨hflag, hvalid⟩ := exec_keyRaw_keepsSticky h
    exact ⟨fun hne => absurd rfl hne, fun _ => hflag, hvalid⟩
  · by_cases ht : i = .terminate
    · subst ht
      obtain ⟨hmod, hcaps, hvalid⟩ := exec_terminate_keepsSticky h
      exact ⟨fun _ => ⟨hmod, hcaps⟩, fun hne => absurd rfl hne, fun hv => hvalid.trans hv⟩
    · have hkept := exec_keepsSticky hk ht h
      exact ⟨fun _ => ⟨hkept.modState, hkept.caps⟩, fun _ => hkept.termFlag, hkept.tsValid⟩

/-! The command ports (R33, R34). -/

/-- A port's registers but RES0 to RES3, and whether a command waits there, are kept. -/
def KeepsCommand (p p' : Port) : Prop :=
  p' = { p with res0 := p'.res0, res1 := p'.res1, res2 := p'.res2, res3 := p'.res3 }

/-- From `s` to `t`, the port that is not live in `s` is untouched, and of the live one only RES0 to RES3 are
written. -/
structure WritesResultsOnly (s t : State) : Prop where
  other : ∀ n, n ≠ s.livePort → t.port n = s.port n
  command : ∀ n, KeepsCommand (s.port n) (t.port n)

theorem WritesResultsOnly.of_ports (hhost : t.host = s.host) (hpeer : t.peer = s.peer) : WritesResultsOnly s t := by
  have hport : ∀ n, t.port n = s.port n
    | .host => hhost
    | .peer => hpeer
  exact ⟨fun n _ => hport n, fun n => by rw [hport]; rfl⟩

theorem WritesResultsOnly.of_context (h : t.context = s.context) : WritesResultsOnly s t :=
  .of_ports (ports_of_context h).1 (ports_of_context h).2

/-- A write of the live port's results. -/
theorem setPort_writesResultsOnly (s : State) {f : Port → Port} (hf : ∀ p, KeepsCommand p (f p)) :
    WritesResultsOnly s (s.setPort s.livePort f) := by
  refine ⟨fun n hn => State.setPort_other s f hn, fun n => ?_⟩
  by_cases hn : n = s.livePort
  · rw [hn, State.setPort_same]
    exact hf _
  · rw [State.setPort_other s f hn]
    rfl

theorem csrRead_writesResultsOnly {index : Word} (h : csrRead index s = .ok t) : WritesResultsOnly s t := by
  obtain rfl | ⟨v, rfl⟩ := csrRead_ok h
  · exact .of_ports rfl rfl
  · exact setPort_writesResultsOnly s fun _ => rfl

theorem decoded_writesResultsOnly (s : State) (phase : DecPhase) (high : Half) (xy err : Bool) (k : TokenKind)
    (v : Word) : WritesResultsOnly s (s.decoded phase high xy err k v) := by
  have hresults := setPort_writesResultsOnly { s with decPhase := phase, decHi := high, decXy := xy, decErr := err }
    (f := fun p => { p with res0 := k.code, res1 := v }) fun _ => rfl
  exact ⟨hresults.other, hresults.command⟩

theorem qPop_writesResultsOnly (s : State) : WritesResultsOnly s (qPop s) := by
  unfold qPop
  split
  · exact setPort_writesResultsOnly s fun _ => rfl
  · have hresults := setPort_writesResultsOnly s.dequeue
      (f := fun p => { p with res0 := s.oldestWord.setWidth 32, res1 := 1 }) fun _ => rfl
    exact ⟨hresults.other, hresults.command⟩

theorem drTake_writesResultsOnly (s : State) (v0 v1 v2 v3 : Word) :
    WritesResultsOnly s (s.clearDirty.setRes v0 v1 v2 v3) := by
  have hresults := setPort_writesResultsOnly s.clearDirty
    (f := fun p => { p with res0 := v0, res1 := v1, res2 := v2, res3 := v3 }) fun _ => rfl
  exact ⟨hresults.other, hresults.command⟩

theorem ruleOf_writesResultsOnly {i : Instr} (h : ruleOf i s = .ok t) : WritesResultsOnly s t := by
  cases i
  case csrRead => exact csrRead_writesResultsOnly h
  case csrWrite => exact .of_context (csrWrite_context h)
  case emit => exact .of_context (emit_context h)
  case keyRaw => exact .of_context (keyRaw_context h)
  case keyCooked => exact .of_context (keyCooked_context h)
  case mouseMotion => exact .of_context (mouseMotion_context h)
  case mouseButtons => exact .of_context (mouseButtons_context h)
  case mousePoll => exact .of_context (mousePoll_context h)
  case reportDamage => exact .of_context (reportDamage_context h)
  case decWord | tsDelta | coord | down | up | tsAbs | reservedType2 | reservedType67 | reservedType815 =>
    obtain ⟨phase, high, xy, err, k, v, rfl⟩ := ruleOf_of_feedsDecoder rfl h
    exact decoded_writesResultsOnly s phase high xy err k v
  all_goals cases h
  case nop | frame | terminate | decReset | setInputSignal | blitRect => exact .of_ports rfl rfl
  case calcOffsets => exact .of_context (calcOffsets_context s)
  case checkWake => exact .of_context (checkWake_context s)
  case qPop => exact qPop_writesResultsOnly s
  case setWake => exact .of_context (setWake_context s _ _)
  case drTake => exact drTake_writesResultsOnly s _ _ _ _
  case cursorUpdate => exact .of_context (cursorUpdate_context s)
  case render => exact .of_context (renderPass_context s)

theorem exec_writesResultsOnly {i : Instr} (h : exec i s = .next t) : WritesResultsOnly s t := by
  rw [exec_eq_issue] at h
  rcases issue_cases h with ⟨_, hr⟩ | ⟨_, _, _, rfl⟩ | ⟨_, _, rfl⟩ | ⟨_, _, rfl⟩
  · exact ruleOf_writesResultsOnly hr
  all_goals exact .of_ports rfl rfl

theorem pollStep_ports (s : State) : (pollStep s).host = s.host ∧ (pollStep s).peer = s.peer := by
  have hkeys := ports_of_context (keySubSteps_context s.kbd { s with kbd := [] })
  obtain ⟨t, rfl, ⟨c, hpoll⟩ | ⟨u, hu, hpoll⟩⟩ := pollStep_cases s <;> rw [hpoll]
  · exact hkeys
  · obtain ⟨hhost, hpeer⟩ := ports_of_context (mousePoll_context hu)
    exact ⟨hhost.trans hkeys.1, hpeer.trans hkeys.2⟩

theorem renderStep_ports (s : State) : (renderStep s).host = s.host ∧ (renderStep s).peer = s.peer := by
  have hpass := ports_of_context (renderPass_context s)
  unfold renderStep
  dsimp only
  split <;> exact hpass

theorem delayStep_ports (s : State) : (delayStep s).host = s.host ∧ (delayStep s).peer = s.peer := by
  unfold delayStep
  dsimp only
  split <;> exact ⟨rfl, rfl⟩

/-- The sequencer's internal steps write no port register (46_sequencer.md R315). -/
theorem blockStep_ports (hs : s.seqPhase.internal = true) (h : blockStep s = .next t) :
    t.host = s.host ∧ t.peer = s.peer := by
  unfold blockStep at h
  have hoffsets := ports_of_context (calcOffsets_context s)
  have hwake := ports_of_context (checkWake_context s)
  cases hp : s.seqPhase <;> rw [hp] at h hs
  case idle | run | terminated | faulted => cases hs
  all_goals cases h
  case offsets => exact hoffsets
  case poll => exact pollStep_ports s
  case wake => exact hwake
  case termchk => exact ⟨rfl, rfl⟩
  case render => exact renderStep_ports s
  case delay => exact delayStep_ports s

/-- Settles O23: a command writes results of the live port alone, and an internal step leaves both ports. -/
theorem portsDoNotInterfere : Obligations.PortsDoNotInterfere := by
  intro i s t
  refine ⟨fun h => ?_, fun hempty hphase h => ?_⟩
  · obtain ⟨hother, hcommand⟩ := exec_writesResultsOnly h
    refine ⟨fun hrun => hother .host ?_, fun hrun => hother .peer ?_, hcommand .host, hcommand .peer⟩
    · simp [State.livePort, hrun]
    · simp [State.livePort, hrun]
  · rw [step_of_no_move hempty] at h
    refine blockStep_ports ?_ h
    simp only [List.mem_cons, List.not_mem_nil, or_false] at hphase
    rcases hphase with hp | hp | hp | hp | hp | hp <;> rw [hp] <;> rfl

end Sys2Proof.Machine
end

section
/-! The encoding family (30_encoding.md), part 1: the two word spaces. The decoder of command words is a lookup in the
opcode map, and the decoder of event words is one case per type; the encoder inverts both. -/

namespace Sys2Proof

open Sys2Proof.Claims

/-! Command words (R108, R110, R112). -/

theorem decodeOpcode_eq_lookup (op : Byte) : decodeOpcode op = opcodeMap.lookup op.toNat := by
  unfold decodeOpcode
  split
  case h_24 =>
    have hunlisted : ∀ row ∈ opcodeMap, (op.toNat != row.1) = true := by
      simp only [opcodeMap, List.cons_append, List.nil_append, List.forall_mem_cons]
      grind
    exact (List.lookup_eq_none_iff.mpr hunlisted).symm
  all_goals rw [‹op.toNat = _›]; rfl

theorem toNat_opcode_of_lt {cmd : Word} (h : cmd.toNat < 256) : (cmd.extractLsb' 0 8).toNat = cmd.toNat := by
  rw [BitVec.extractLsb'_toNat, Nat.shiftRight_zero, Nat.mod_eq_of_lt h]

theorem decodeCommand_of_ge {cmd : Word} (h : 256 ≤ cmd.toNat) : decodeCommand cmd = .error (.reservedBits cmd) :=
  if_pos fun h0 => absurd ((extract_high_eq_zero cmd).mp h0) (by omega)

/-- With its reserved bits 0 a command word is its value's row of the opcode map. -/
theorem decodeCommand_of_lt {cmd : Word} (h : cmd.toNat < 256) :
    decodeCommand cmd = ((opcodeMap.lookup cmd.toNat).map Except.ok).getD
      (.error (.reservedOpcode (BitVec.ofNat 8 cmd.toNat))) := by
  have hop : cmd.extractLsb' 0 8 = BitVec.ofNat 8 cmd.toNat := by
    rw [← toNat_opcode_of_lt h, BitVec.ofNat_toNat, BitVec.setWidth_eq]
  unfold decodeCommand
  rw [if_neg (not_not.mpr ((extract_high_eq_zero cmd).mpr h)), decodeOpcode_eq_lookup, toNat_opcode_of_lt h, hop]
  cases opcodeMap.lookup cmd.toNat <;> rfl

/-- Settles O3: below 256 the decoder is the opcode map, and from 256 up the reserved bits refuse the word. -/
theorem commandIsTheRowOfItsOpcode : Obligations.CommandIsTheRowOfItsOpcode := by
  intro cmd
  by_cases h : 256 ≤ cmd.toNat
  · rw [if_pos h, decodeCommand_of_ge h]
  · rw [if_neg h, decodeCommand_of_lt (not_le.mp h)]
    cases opcodeMap.lookup cmd.toNat <;> rfl

/-- A word that decodes is a row of the opcode map. -/
theorem mem_opcodeMap_of_decodeCommand_ok {cmd : Word} {i : Instr} (h : decodeCommand cmd = .ok i) :
    (cmd.toNat, i) ∈ opcodeMap := by
  rcases lt_or_ge cmd.toNat 256 with hlt | hge
  · rw [decodeCommand_of_lt hlt] at h
    cases hlookup : opcodeMap.lookup cmd.toNat with
    | none =>
      rw [hlookup] at h
      cases h
    | some j =>
      rw [hlookup] at h
      cases h
      obtain ⟨before, after, heq, -⟩ := List.lookup_eq_some_iff.mp hlookup
      rw [heq]
      exact List.mem_append_right _ (List.mem_cons_self ..)
  · rw [decodeCommand_of_ge hge] at h
    cases h

/-- Every row of the opcode map is well-formed and encoded as its own opcode. -/
theorem encode_of_mem_opcodeMap :
    ∀ row ∈ opcodeMap, row.2.wellFormed = true ∧ encode row.2 = .command (BitVec.ofNat 32 row.1) := by
  decide

theorem encode_of_decodeCommand_ok {cmd : Word} {i : Instr} (h : decodeCommand cmd = .ok i) :
    i.wellFormed = true ∧ encode i = .command cmd := by
  obtain ⟨hwf, hencode⟩ := encode_of_mem_opcodeMap _ (mem_opcodeMap_of_decodeCommand_ok h)
  exact ⟨hwf, by rw [hencode, BitVec.ofNat_toNat, BitVec.setWidth_eq]⟩

/-! Event words (R100, R101, R107). -/

/-- The types 8 to 15 are one row. -/
theorem decodeEventWord_of_ge {w : Half} (h : 8 ≤ (eventType w).toNat) :
    decodeEventWord w = .reservedType815 (eventType w) (eventParam w) := by
  unfold decodeEventWord
  split
  case h_9 => rfl
  all_goals omega

/-- A word is packed of its type and its parameter. -/
theorem packFields_of_eventType {w : Half} {t : BitVec 4} (h : (eventType w).toNat = t.toNat) :
    packFields t (eventParam w) = w := by
  rw [← BitVec.eq_of_toNat_eq h, packFields_eventType_eventParam]

theorem encode_decodeEventWord (w : Half) :
    (decodeEventWord w).wellFormed = true ∧ encode (decodeEventWord w) = .event w := by
  unfold decodeEventWord
  split
  case h_9 =>
    have hge : 8 ≤ (eventType w).toNat := by grind
    exact ⟨decide_eq_true hge, congrArg Encoded.event (packFields_eventType_eventParam w)⟩
  all_goals exact ⟨rfl, congrArg Encoded.event (packFields_of_eventType ‹_›)⟩

/-- Settles O1: a command word is looked up in the opcode map, and an event word is taken apart into the fields it
was packed of. -/
theorem decodeInvertsEncode : Obligations.DecodeInvertsEncode := by
  intro i hwf
  cases i
  case tsDelta | coord | down | up | tsAbs | reservedType2 => simp [encode, decode, decodeEventWord]
  case reservedType67 t p =>
    obtain rfl | rfl : t = 6 ∨ t = 7 := by simpa [Instr.wellFormed] using hwf
    all_goals simp [encode, decode, decodeEventWord]
  case reservedType815 t p =>
    have hge : 8 ≤ (eventType (packFields t p)).toNat := by simpa [Instr.wellFormed] using hwf
    simp [encode, decode, decodeEventWord_of_ge hge]
  all_goals rfl

/-- Settles O2: a command word is the opcode of its row, and an event word is packed of its own fields. -/
theorem encodeInvertsDecode : Obligations.EncodeInvertsDecode := by
  intro e i h
  cases e with
  | command cmd => exact encode_of_decodeCommand_ok h
  | event w =>
    cases h
    exact encode_decodeEventWord w

/-- Settles O5: nine fixed words, each decoded. -/
theorem writtenOutWordsDecode : Obligations.WrittenOutWordsDecode := by
  unfold Obligations.WrittenOutWordsDecode
  decide

end Sys2Proof
end

section
/-! The encoding family (30_encoding.md), part 2: what runs at the live port. A word that decodes runs as its
instruction, an illegal one faults or is ignored, and an event word is a token of the stream decoder. -/

namespace Sys2Proof.Machine

open Sys2Proof.Claims

variable {s : State}

/-! The command that waits at the live port (46_sequencer.md R312). -/

theorem livePort_of_run (h : s.seqPhase = .run) : s.livePort = .peer := if_pos h

theorem livePort_of_idle (h : s.seqPhase = .idle) : s.livePort = .host := if_neg (by simp [h])

theorem livePort_of_halted (h : s.seqPhase = .terminated ∨ s.seqPhase = .faulted) : s.livePort = .host :=
  if_neg (by rcases h with h | h <;> simp [h])

/-- Where the sequencer takes no internal step, the block turns to the live port. -/
theorem blockStep_eq_acceptAt (h : s.seqPhase.internal = false) : blockStep s = acceptAt s.livePort s := by
  unfold blockStep State.livePort
  cases hp : s.seqPhase <;> rw [hp] at h
  case idle | run | terminated | faulted => rfl
  all_goals cases h

theorem blockStep_of_decodes {n : PortName} {i : Instr} (hp : s.seqPhase.internal = false) (hn : s.livePort = n)
    (hw : (s.port n).waiting = true) (hd : decodeCommand (s.port n).cmd = .ok i) :
    blockStep s = exec i (s.accept n) := by
  rw [blockStep_eq_acceptAt hp, hn]
  unfold acceptAt runCommand
  rw [if_pos hw, hd]

theorem blockStep_of_illegal {n : PortName} {e : DecodeError} (hp : s.seqPhase.internal = false)
    (hn : s.livePort = n) (hw : (s.port n).waiting = true) (hd : decodeCommand (s.port n).cmd = .error e) :
    blockStep s = issueIllegal (s.accept n) := by
  rw [blockStep_eq_acceptAt hp, hn]
  unfold acceptAt runCommand
  rw [if_pos hw, hd]

theorem step_of_block_move {rest : List Move} (h : s.schedule = .block :: rest) :
    step s = blockStep { s with schedule := rest } := by
  unfold step advance
  rw [h]
  rfl

/-! Illegal command words (R112, 60_exceptions.md R368). -/

theorem issueIllegal_of_accepting (h : s.seqPhase = .idle ∨ s.seqPhase = .run) :
    issueIllegal s = .next (faultedWith s 5) := by
  unfold issueIllegal
  rcases h with h | h <;> rw [h] <;> rfl

theorem issueIllegal_of_halted (h : s.seqPhase = .terminated ∨ s.seqPhase = .faulted) : issueIllegal s = .next s := by
  unfold issueIllegal
  rcases h with h | h <;> rw [h]

/-- Settles O10: the block turns to the live port, and what an illegal word does there is the phase's. -/
theorem illegalCommandWordFaults : Obligations.IllegalCommandWordFaults := by
  intro s n e hempty hw hd
  have hstep (hp : s.seqPhase.internal = false) (hn : s.livePort = n) : step s = issueIllegal (s.accept n) := by
    rw [step_of_no_move hempty, blockStep_of_illegal hp hn hw hd]
  refine ⟨?_, ?_⟩
  · rintro (⟨rfl, hp⟩ | ⟨rfl, hp⟩)
    · rw [hstep (by rw [hp]; rfl) (livePort_of_idle hp)]
      exact issueIllegal_of_accepting (by simp [hp])
    · rw [hstep (by rw [hp]; rfl) (livePort_of_run hp)]
      exact issueIllegal_of_accepting (by simp [hp])
  · rintro rfl hp
    rw [hstep (by rcases hp with hp | hp <;> rw [hp] <;> rfl) (livePort_of_halted hp)]
    exact issueIllegal_of_halted (by simpa using hp)

/-! Placed words (log 9). -/

/-- A row of 32 bits is a command word, and a row of 16 bits an event word. -/
theorem decodeTableWord_cases {nbits w : Nat} {i : Instr} (h : decodeTableWord nbits w = some i) :
    (nbits = 32 ∧ decodeCommand (BitVec.ofNat 32 w) = .ok i)
    ∨ (nbits = 16 ∧ decodeEventWord (BitVec.ofNat 16 w) = i) := by
  unfold decodeTableWord at h
  split at h
  · cases h
  · split at h
    next h32 =>
      refine .inl ⟨h32, ?_⟩
      change (decodeCommand _).toOption = _ at h
      cases hd : decodeCommand (BitVec.ofNat 32 w) <;> rw [hd] at h <;> cases h
      rfl
    next =>
      split at h
      next h16 => exact .inr ⟨h16, Option.some.inj h⟩
      next => cases h

theorem step_placeCommand {cmd : Word} {i : Instr} (s : State) (hd : decodeCommand cmd = .ok i) :
    step (s.placeCommand cmd) = exec i ({ s.placeCommand cmd with schedule := s.schedule }.accept .host) := by
  rw [step_of_block_move (rest := s.schedule) rfl]
  exact blockStep_of_decodes rfl rfl rfl hd

/-- DEC_WORD is the instruction that ARG0[15:0] decodes to (30_encoding.md R107). -/
theorem exec_decWord (s : State) : exec .decWord s = exec (decodeEventWord (s.arg0.setWidth 16)) s :=
  execDecWord_eq_exec s

theorem step_placeEvent (s : State) (w : Half) :
    step (s.placeEvent w)
      = exec (decodeEventWord w) ({ s.placeEvent w with schedule := s.schedule }.accept .host) := by
  have harg : (({ s.placeEvent w with schedule := s.schedule }.accept .host).arg0).setWidth 16 = w := by
    show (w.setWidth 32).setWidth 16 = w
    rw [BitVec.setWidth_setWidth_of_le _ (by decide), BitVec.setWidth_eq]
  have hstep : step (s.placeEvent w) = exec .decWord ({ s.placeEvent w with schedule := s.schedule }.accept .host) :=
    step_placeCommand _ rfl
  rw [hstep, exec_decWord, harg]

/-- Settles O7: a command word is placed in CMD, an event word in ARG0 with DEC_WORD in CMD. -/
theorem placedWordRunsNext : Obligations.PlacedWordRunsNext := by
  intro s nbits w i h
  rcases decodeTableWord_cases h with ⟨rfl, hd⟩ | ⟨rfl, rfl⟩
  · exact step_placeCommand s hd
  · exact step_placeEvent s _

/-! Event words (R100, R117, 40_event_codec.md R150). -/

theorem feedEvent_of_tag (hs : s.seqPhase = .idle) (hd : s.decPhase = .tag) (w : Half) (tagged : State → State) :
    feedEvent w s tagged = .next (tagged s) := by
  unfold feedEvent
  rw [issue_of_accepts _ (by rw [hs]; rfl)]
  unfold feed
  rw [hd]
  rfl

theorem token_of_idle (hs : s.seqPhase = .idle) (k : TokenKind) (v : Word) :
    s.token k v = { s with host := { s.host with res0 := k.code, res1 := v } } := by
  unfold State.token State.setRes01
  rw [livePort_of_idle hs]
  rfl

/-- A word whose token is its parameter. -/
theorem feedEvent_token (hs : s.seqPhase = .idle) (hd : s.decPhase = .tag) (w : Half) (k : TokenKind)
    (p : BitVec 12) :
    feedEvent w s (fun s => s.token k (p.setWidth 32))
      = .next { s with host := { s.host with res0 := k.code, res1 := BitVec.ofNat 32 p.toNat } } := by
  rw [feedEvent_of_tag hs hd, token_of_idle hs, BitVec.ofNat_toNat]

/-- A reserved word's token is the whole word, and sets DEC_ERR (R107). -/
theorem feedEvent_reserved (hs : s.seqPhase = .idle) (hd : s.decPhase = .tag) (t : BitVec 4) (p : BitVec 12) :
    feedEvent (packFields t p) s (·.reservedToken (packFields t p))
      = .next { s with
          host := { s.host with res0 := 7, res1 := BitVec.ofNat 32 (2 ^ 12 * t.toNat + p.toNat) }
          decErr := true } := by
  rw [feedEvent_of_tag hs hd, ← packFields_toNat, BitVec.ofNat_toNat]
  exact congrArg Host.Outcome.next (token_of_idle (s := { s with decErr := true }) hs _ _)

/-- Settles O30: an event word is fed to the stream decoder, and in phase TAG its own effect is a token. -/
theorem eventWordsRunAsDecWordTokens : Obligations.EventWordsRunAsDecWordTokens := by
  refine ⟨fun s => (exec_decWord s).symm, fun s p t hs hd => ?_⟩
  have hcoord : exec (.coord p) s = .next
      ({ s with decXy := flipBit s.decXy }.token (if s.decXy then .coordY else .coordX) (p.setWidth 32)) :=
    feedEvent_of_tag hs hd _ _
  have htsAbs : exec (.tsAbs p) s = .next ({ s with decPhase := .hi }.token .none 0) := feedEvent_of_tag hs hd _ _
  refine ⟨feedEvent_token hs hd _ _ p, ?_, feedEvent_token hs hd _ _ p, feedEvent_token hs hd _ _ p, ?_,
    feedEvent_reserved hs hd 2 p, feedEvent_reserved hs hd t p, feedEvent_reserved hs hd t p⟩
  · rw [hcoord, token_of_idle (by exact hs), BitVec.ofNat_toNat]
    cases s.decXy <;> rfl
  · rw [htsAbs, token_of_idle (by exact hs)]
    rfl

end Sys2Proof.Machine
end

section
/-! The encoding family (30_encoding.md), part 3: the pseudo-instructions (R115), at either live port. -/

namespace Sys2Proof

/-- The command a pseudo-instruction expands to. -/
def Pseudo.instr : Pseudo → Instr
  | .cancelWake => .setWake
  | .unregisterInput => .setInputSignal
  | .clearOvf | .clearDecErr => .csrWrite
  | .readStatus => .csrRead

theorem Pseudo.encode_instr (x : Pseudo) (regs : Command) : encode x.instr = .command (x.expand regs).cmd := by
  cases x <;> rfl

theorem Pseudo.decodeCommand_expand (x : Pseudo) (regs : Command) :
    decodeCommand (x.expand regs).cmd = .ok x.instr := by
  have hdecode := decodeInvertsEncode x.instr (by cases x <;> rfl)
  rwa [x.encode_instr regs] at hdecode

namespace Machine

open Claims

variable {s t : State} {n : PortName}

/-! STATUS (10_state.md R60) as a sum of weights. -/

theorem append_toNat {m n : Nat} (a : BitVec m) (b : BitVec n) : (a ++ b).toNat = 2 ^ n * a.toNat + b.toNat := by
  rw [BitVec.toNat_append, ← Nat.shiftLeft_add_eq_or_of_lt b.isLt, Nat.shiftLeft_eq, Nat.mul_comm]

theorem bit_eq_mul_toNat (b : Bool) (n : Nat) : bit b n = 2 ^ n * b.toNat := by cases b <;> simp [bit]

theorem status_eq_statusBits (s : State) : s.status = BitVec.ofNat 32 (statusBits s) := by
  have hvalue : s.status.toNat = statusBits s := by
    simp only [State.status, statusBits, append_toNat, flagBit, BitVec.toNat_ofBool, bit_eq_mul_toNat]
    rw [show (0 : BitVec 20).toNat = 0 from rfl]
    omega
  rw [← hvalue, BitVec.ofNat_toNat, BitVec.setWidth_eq]

/-! A line presented at the live port. -/

/-- A port once a pseudo-instruction presented at it has been accepted: CMD and the arguments are written. -/
def Port.loaded (p : Port) (x : Pseudo) : Port :=
  let c := x.expand p.command
  { p with cmd := c.cmd, arg0 := c.arg0, arg1 := c.arg1, arg2 := c.arg2, arg3 := c.arg3 }

theorem presentPseudo_accept (hw : (s.port n).waiting = false) (x : Pseudo) :
    (s.setPort n (·.presentPseudo x)).accept n = s.setPort n (·.loaded x) := by
  have hport : { (s.port n).presentPseudo x with waiting := false } = (s.port n).loaded x := by
    rw [← hw]
    rfl
  cases n
  · exact congrArg (fun p => { s with host := p }) hport
  · exact congrArg (fun p => { s with peer := p }) hport

/-- A command that is executed is not held up by an internal step (46_sequencer.md R312). -/
theorem internal_eq_false_of_accepts {p : Phase} {c : CmdClass} (h : p.accepts c = true) : p.internal = false := by
  cases p
  case idle | run | terminated | faulted => rfl
  all_goals cases h

theorem step_presentPseudo (hempty : s.schedule = []) (hp : s.seqPhase.internal = false) (hn : s.livePort = n)
    (hw : (s.port n).waiting = false) (x : Pseudo) :
    step (s.setPort n (·.presentPseudo x)) = exec x.instr (s.setPort n (·.loaded x)) := by
  have hport := s.setPort_same n (·.presentPseudo x)
  have hempty' : (s.setPort n (·.presentPseudo x)).schedule = [] := by rw [State.setPort_schedule, hempty]
  have hp' : (s.setPort n (·.presentPseudo x)).seqPhase.internal = false := by rw [State.setPort_seqPhase, hp]
  have hn' : (s.setPort n (·.presentPseudo x)).livePort = n := by rw [State.setPort_livePort, hn]
  rw [step_of_no_move hempty', blockStep_of_decodes hp' hn' (by rw [hport]; rfl)
    (by rw [hport]; exact x.decodeCommand_expand _), presentPseudo_accept hw]

/-! What a line does. -/

/-- What a pseudo-instruction names (R115); READ_STATUS answers at port `n`. -/
def pseudoEffect (n : PortName) (s : State) : Pseudo → State
  | .cancelWake => s.clearWake
  | .unregisterInput => { s with inSig := 0 }
  | .clearOvf => { s with qOvf := false }
  | .clearDecErr => { s with decErr := false }
  | .readStatus => s.setPort n fun p => { p with res0 := BitVec.ofNat 32 (statusBits s) }

/-- A write to STATUS with bit 0 alone clears Q_OVF, and with bit 1 alone DEC_ERR (47_control.md R342). -/
theorem writeStatus_one (s : State) : s.writeStatus 1 = { s with qOvf := false } := by
  simp [State.writeStatus]

theorem writeStatus_two (s : State) : s.writeStatus 2 = { s with decErr := false } := by
  simp [State.writeStatus]

/-- With the arguments of its expansion, the command does what the pseudo-instruction names. -/
theorem ruleOf_pseudo {x : Pseudo} {regs : Command} (hn : t.livePort = n) (h0 : t.arg0 = (x.expand regs).arg0)
    (h1 : t.arg1 = (x.expand regs).arg1) : ruleOf x.instr t = .ok (pseudoEffect n t x) := by
  cases x
  case cancelWake =>
    show Except.ok (setWake t.arg0 t.arg1 t) = _
    rw [h0]
    rfl
  case unregisterInput =>
    show Except.ok { t with inSig := t.arg0 } = _
    rw [h0]
    rfl
  case clearOvf =>
    show csrWrite t.arg0 t.arg1 t = _
    rw [h0, h1]
    exact congrArg Except.ok (writeStatus_one t)
  case clearDecErr =>
    show csrWrite t.arg0 t.arg1 t = _
    rw [h0, h1]
    exact congrArg Except.ok (writeStatus_two t)
  case readStatus =>
    show csrRead t.arg0 t = _
    rw [h0]
    show Except.ok (t.setRes0 t.status) = _
    rw [State.setRes0, hn, status_eq_statusBits]
    rfl

theorem step_presentPseudo_of_accepts (hempty : s.schedule = []) (hn : s.livePort = n)
    (hw : (s.port n).waiting = false) {x : Pseudo} (ha : s.seqPhase.accepts x.instr.cls = true) :
    step (s.setPort n (·.presentPseudo x)) = .next (pseudoEffect n (s.setPort n (·.loaded x)) x) := by
  have hn' : (s.setPort n (·.loaded x)).livePort = n := by rw [State.setPort_livePort, hn]
  have hport : (s.setPort n (·.loaded x)).port (s.setPort n (·.loaded x)).livePort = (s.port n).loaded x := by
    rw [hn', State.setPort_same]
  have hrule := ruleOf_pseudo (x := x) hn' (congrArg Port.arg0 hport) (congrArg Port.arg1 hport)
  rw [step_presentPseudo hempty (internal_eq_false_of_accepts ha) hn hw, exec_eq_issue,
    issue_of_accepts _ (by rwa [State.setPort_seqPhase]), hrule]
  rfl

theorem issue_classH_of_run (hp : s.seqPhase = .run) (rule : State → Result) :
    issue .H s rule = .next (faultedWith s 5) := by
  unfold issue
  rw [hp]
  rfl

theorem step_presentPseudo_of_classH (hempty : s.schedule = []) (hp : s.seqPhase = .run)
    (hw : s.peer.waiting = false) {x : Pseudo} (hc : x.instr.cls = .H) :
    step (s.setPort .peer (·.presentPseudo x)) = .next (faultedWith (s.setPort .peer (·.loaded x)) 5) := by
  rw [step_presentPseudo hempty (by rw [hp]; rfl) (livePort_of_run hp) hw, exec_eq_issue, hc]
  exact issue_classH_of_run ((State.setPort_seqPhase ..).trans hp) _

/-- Settles O60: each line is its expansion at the live port; in RUN the two of class H fault. -/
theorem pseudoInstructionsDoWhatTheyName : Obligations.PseudoInstructionsDoWhatTheyName := by
  intro s hempty
  refine ⟨fun hp hw => ?_, fun hp hw => ?_⟩
  · have hline (x : Pseudo) := step_presentPseudo_of_accepts (x := x) hempty (livePort_of_idle hp) hw (by rw [hp]; rfl)
    exact ⟨hline .cancelWake, hline .unregisterInput, hline .clearOvf, hline .clearDecErr, hline .readStatus⟩
  · have hline {x : Pseudo} (hc : Phase.run.accepts x.instr.cls = true) :=
      step_presentPseudo_of_accepts hempty (livePort_of_run hp) hw (x := x) (by rwa [hp])
    have hfault {x : Pseudo} (hc : x.instr.cls = .H) := step_presentPseudo_of_classH hempty hp hw hc
    exact ⟨hline (x := .cancelWake) rfl, hline (x := .unregisterInput) rfl, hfault (x := .clearOvf) rfl,
      hfault (x := .clearDecErr) rfl, hline (x := .readStatus) rfl⟩

end Machine
end Sys2Proof
end

section
/-! The event-codec family (40_event_codec.md), part 1: the words of a group parse back to its events. A frame is one
word of type 0, or a word of type 5 and two raw words, so what stands at the head of a group's words is one parsed event
whatever follows it. -/

namespace Sys2Proof.Machine

/-! The fields of a packed word (R131, R132). -/

theorem eventType_pack_toNat {t : Nat} (ht : t ≤ 15) (p : Nat) : (eventType (pack t p)).toNat = t := by
  rw [pack, eventType_packFields, BitVec.toNat_ofNat, Nat.mod_eq_of_lt (by omega)]

theorem eventParam_pack_toNat (t : Nat) {p : Nat} (hp : p ≤ 4095) : (eventParam (pack t p)).toNat = p := by
  rw [pack, eventParam_packFields, BitVec.toNat_ofNat, Nat.mod_eq_of_lt (by omega)]

theorem pack_toNat {t p : Nat} (ht : t ≤ 15) (hp : p ≤ 4095) : (pack t p).toNat = 2 ^ 12 * t + p := by
  rw [pack_eq_ofNat ht hp, BitVec.toNat_ofNat, Nat.mod_eq_of_lt (by omega)]

/-- Settles O4: a packed word is a concatenation, so its fields are the ones it was packed of. -/
theorem packAndUnpackAreInverse : Obligations.PackAndUnpackAreInverse := by
  refine ⟨fun t p ht hp => ⟨?_, eventType_pack_toNat ht p, eventParam_pack_toNat t hp⟩, fun w => ?_⟩
  · rw [pack_toNat ht hp, ← Nat.shiftLeft_add_eq_or_of_lt (by omega), Nat.shiftLeft_eq, Nat.mul_comm]
  · rw [pack, BitVec.ofNat_toNat, BitVec.ofNat_toNat, BitVec.setWidth_eq, BitVec.setWidth_eq,
      packFields_eventType_eventParam]

/-! One event at the head of a word list (R152). -/

theorem decodeEventsFrom_short {w e : Half} (hw : eventType w = 0) (he : isEventWord e = true) (i : Nat)
    (rest : List Half) :
    decodeEventsFrom i (w :: e :: rest)
      = (decodeEventsFrom (i + 2) rest).map (⟨.delta (eventParam w), eventType e, eventParam e⟩ :: ·) := by
  match rest with
  | [] | [_] | _ :: _ :: _ => simp [decodeEventsFrom, hw, he, Except.map]

theorem decodeEventsFrom_long {w e : Half} (hw : eventType w = 5) (he : isEventWord e = true) (i : Nat)
    (high low : Half) (rest : List Half) :
    decodeEventsFrom i (w :: high :: low :: e :: rest)
      = (decodeEventsFrom (i + 4) rest).map (⟨.abs (high ++ low), eventType e, eventParam e⟩ :: ·) := by
  simp [decodeEventsFrom, hw, he]

/-- A legal event, whose word the parse takes as an event word (R142, R152). -/
def Event.legal (e : Event) : Prop := (e.type = 1 ∨ e.type = 3 ∨ e.type = 4) ∧ e.param ≤ 4095

/-- A logical event's type and parameter. -/
def Event.fields (e : Event) : Nat × Nat := (e.type, e.param)

/-- A parsed event's type and parameter, without its frame. -/
def Parsed.fields (p : Parsed) : Nat × Nat := (p.type.toNat, p.param.toNat)

theorem isEventWord_pack {e : Event} (he : e.legal) : isEventWord (pack e.type e.param) = true := by
  obtain ⟨htype, -⟩ := he
  rw [isEventWord, pack, eventType_packFields]
  rcases htype with h | h | h <;> rw [h] <;> rfl

/-- A frame and a legal event's word are one parsed event, whatever follows them (R142). -/
theorem decodeEventsFrom_frame (now lt : Word) (tv : Bool) (c : Clock) {e : Event} (he : e.legal) (i : Nat)
    (rest : List Half) :
    ∃ j p, decodeEventsFrom i ((tsFrame now lt tv c).1 ++ pack e.type e.param :: rest)
        = (decodeEventsFrom j rest).map (p :: ·) ∧ p.fields = e.fields := by
  have hword := isEventWord_pack he
  obtain ⟨htype, hparam⟩ := he
  have hfields (f : Frame) :
      Parsed.fields ⟨f, eventType (pack e.type e.param), eventParam (pack e.type e.param)⟩ = e.fields :=
    Prod.ext (eventType_pack_toNat (by omega) _) (eventParam_pack_toNat _ hparam)
  have hshort (d : Nat) : eventType (pack 0 d) = 0 := eventType_packFields 0 _
  unfold tsFrame
  split
  · exact ⟨_, _, decodeEventsFrom_short (hshort 0) hword i rest, hfields _⟩
  · split
    · exact ⟨_, _, decodeEventsFrom_short (hshort _) hword i rest, hfields _⟩
    · exact ⟨_, _, decodeEventsFrom_long (eventType_packFields 5 _) hword i _ _ rest, hfields _⟩

/-- A group's words begin with its first event's frame and word (R140). -/
theorem foldl_add_cons_words (e : Event) (es : List Event) (f : Framing) :
    ((e :: es).foldl Framing.add { f with words := [] }).words
      = (tsFrame f.clock.sampleTick.1 f.lastTick f.tsValid f.clock.sampleTick.2).1
        ++ pack e.type e.param :: (es.foldl Framing.add { f.add e with words := [] }).words := by
  rw [List.foldl_cons, foldl_add_words]
  simp [Framing.add]

/-- Whatever the codec's registers are before it, a group of legal events parses back to its events. -/
theorem decodeEventsFrom_foldl_add {events : List Event} (h : ∀ e ∈ events, e.legal) (f : Framing) (i : Nat) :
    ∃ ps, decodeEventsFrom i (events.foldl Framing.add { f with words := [] }).words = .ok ps
      ∧ ps.map Parsed.fields = events.map Event.fields := by
  induction events generalizing f i with
  | nil => exact ⟨[], rfl, rfl⟩
  | cons e es ih =>
    obtain ⟨he, hes⟩ := List.forall_mem_cons.mp h
    obtain ⟨j, p, hp, hhead⟩ := decodeEventsFrom_frame f.clock.sampleTick.1 f.lastTick f.tsValid f.clock.sampleTick.2
      he i (es.foldl Framing.add { f.add e with words := [] }).words
    obtain ⟨ps, hps, htail⟩ := ih hes (f.add e) j
    exact ⟨p :: ps, by rw [foldl_add_cons_words, hp, hps]; rfl, by rw [List.map_cons, List.map_cons, hhead, htail]⟩

/-- Settles O27, by induction on the events: the first one's frame and word are one parsed event, and the rest is
framed from the registers the first one left. -/
theorem groupWordsParseBack : Obligations.GroupWordsParseBack := by
  intro s events h
  exact decodeEventsFrom_foldl_add h ⟨[], s.lastTick, s.tsValid, s.evtCount, s.clock⟩ 0

end Sys2Proof.Machine
end

section
/-! The event-codec family (40_event_codec.md), part 2: the frame each event of a group gets, the checks and the drop of
EmitGroup, and EMIT, which is a group of one event. -/

namespace Sys2Proof.Machine

open Sys2Proof.Claims

variable {s : State}

/-! Frames (R133 to R136). -/

/-- A frame's words as numbers: a zero delta, a short delta, or the marker and the halves of the absolute time. -/
def frameNumbers (tv : Bool) (d a : Nat) : List Half :=
  if tv = false then [0]
  else if d ≤ 4095 then [BitVec.ofNat 16 d]
  else [0x5000, BitVec.ofNat 16 (a / 2 ^ 16), BitVec.ofNat 16 (a % 2 ^ 16)]

theorem frameNumbers_append (tv : Bool) (d a : Nat) (w : Half) :
    frameNumbers tv d a ++ [w] =
      if tv = false then [0, w]
      else if d ≤ 4095 then [BitVec.ofNat 16 d, w]
      else [0x5000, BitVec.ofNat 16 (a / 2 ^ 16), BitVec.ofNat 16 (a % 2 ^ 16), w] := by
  simp only [frameNumbers, apply_ite (· ++ [w]), List.cons_append, List.nil_append]

theorem tsFrame_eq (now lt : Word) (tv : Bool) (c : Clock) :
    let d := (2 ^ 32 + now.toNat - lt.toNat) % 2 ^ 32
    tsFrame now lt tv c = (frameNumbers tv d ((c.sampleWall.1.toNat + 2177452800) % 2 ^ 32),
      if tv = false ∨ d ≤ 4095 then c else c.sampleWall.2) := by
  dsimp only
  rw [← word_sub_toNat, ← absTime_toNat]
  rcases tsFrame_cases now lt tv c with ⟨rfl, h⟩ | ⟨rfl, hd, h⟩ | ⟨rfl, hd, h⟩
  · rw [h]
    rfl
  · rw [h, frameNumbers, if_neg (by simp), if_pos hd, if_pos (.inr hd)]
  · rw [h, frameNumbers, if_neg (by simp), if_neg (not_le.mpr hd), if_neg (by simpa using hd), absFrame_eq]

/-- Settles O25: framing folds over the events, so one more event is one more turn of EmitGroup's loop. -/
theorem groupFramesEachEvent : Obligations.GroupFramesEachEvent := by
  intro s events e ht hp
  refine ⟨rfl, ?_⟩
  have hadd : s.frameEvents (events ++ [e]) = (s.frameEvents events).add e := List.foldl_append
  rw [hadd, Framing.add, tsFrame_eq, pack_eq_ofNat ht hp]
  rfl

/-! EmitGroup (R140, R141). -/

theorem any_outOfRange (events : List Event) :
    events.any Event.outOfRange = true ↔ ∃ e ∈ events, 15 < e.type ∨ 4095 < e.param := by
  simp only [List.any_eq_true, Event.outOfRange, Bool.or_eq_true, decide_eq_true_eq]

/-- Settles O26: EmitGroup is its checks in order, and past them the group is queued or dropped whole. -/
theorem emitGroupChecksThenQueuesOrDropsWhole : Obligations.EmitGroupChecksThenQueuesOrDropsWhole := by
  intro s events
  simp only [emitGroup, any_outOfRange, queued, apply_ite Except.ok]

/-! EMIT (R143). -/

/-- IDLE accepts every class, so a command is its rule's result there (46_sequencer.md R312). -/
theorem exec_of_idle (hs : s.seqPhase = .idle) (i : Instr) : exec i s = complete s (ruleOf i s) := by
  rw [exec_eq_issue, issue_of_accepts _ (by rw [hs]; rfl)]

/-- EMIT's checks in order, and past them a group of its one event. -/
theorem emit_eq (t p : Word) :
    emit t p s =
      if s.inSig = 0 then .error .noInputSignal
      else if ¬ (t = 1 ∨ t = 3 ∨ t = 4) ∨ 4095 < p.toNat then .error .paramRange
      else .ok (queued [⟨t.toNat, p.toNat⟩] s) := by
  unfold emit
  by_cases htype : t = 1 ∨ t = 3 ∨ t = 4
  · have hfits : ¬ 15 < t.toNat := by rcases htype with rfl | rfl | rfl <;> decide
    rw [if_neg (by tauto), emitGroupChecksThenQueuesOrDropsWhole, if_neg (List.cons_ne_nil _ _)]
    simp only [List.mem_singleton, exists_eq_left, hfits, htype, not_true_eq_false, false_or]
  · rw [if_pos (by tauto)]
    simp only [htype, not_false_eq_true, true_or, if_true]

/-- A group of one event: its frame and its word (R140, R143). -/
theorem queued_singleton {e : Event} (ht : e.type ≤ 15) (hp : e.param ≤ 4095) :
    let now := s.clock.sampleTick.1
    let drawn := s.clock.sampleTick.2
    let d := (2 ^ 32 + now.toNat - s.lastTick.toNat) % 2 ^ 32
    let a := (drawn.sampleWall.1.toNat + 2177452800) % 2 ^ 32
    let words := frameNumbers s.tsValid d a ++ [BitVec.ofNat 16 (2 ^ 12 * e.type + e.param)]
    let left := if s.tsValid = false ∨ d ≤ 4095 then drawn else drawn.sampleWall.2
    queued [e] s =
      if s.cfg.qdepth < s.qCount + words.length then { s with qOvf := true, clock := left }
      else { s.enqueueAll words with lastTick := now, tsValid := true, evtCount := s.evtCount + 1, clock := left } := by
  obtain ⟨-, hframed⟩ := groupFramesEachEvent s [] e ht hp
  unfold queued
  rw [show [e] = [] ++ [e] from rfl, hframed]
  rfl

/-- Settles O24: EMIT is its checks and a group of one event, whose frame is written out. -/
theorem emitFramesOneEvent : Obligations.EmitFramesOneEvent := by
  intro s hs now drawn d a w words left
  rw [exec_of_idle hs, show ruleOf .emit s = emit s.arg0 s.arg1 s from rfl, emit_eq]
  by_cases hsig : s.inSig = 0
  · rw [if_pos hsig, if_pos hsig]
    rfl
  by_cases hrange : ¬ (s.arg0 = 1 ∨ s.arg0 = 3 ∨ s.arg0 = 4) ∨ 4095 < s.arg1.toNat
  · rw [if_neg hsig, if_neg hsig, if_pos hrange, if_pos hrange]
    rfl
  obtain ⟨htype, hparam⟩ := not_or.mp hrange
  have ht : s.arg0.toNat ≤ 15 := by rcases not_not.mp htype with h | h | h <;> rw [h] <;> decide
  rw [if_neg hsig, if_neg hsig, if_neg hrange, if_neg hrange, queued_singleton ht (not_lt.mp hparam), frameNumbers_append]
  rfl

end Sys2Proof.Machine
end

section
/-! The event-codec family (40_event_codec.md), part 3: the stream decoder. DEC_WORD by phase and type, DEC_RESET, and
timestamp frames fed back to the decoder. -/

namespace Sys2Proof.Machine

open Sys2Proof.Claims

variable {s : State}

/-! The fields of an event word as numbers (R100). -/

theorem eventType_toNat (w : Half) : (eventType w).toNat = w.toNat / 2 ^ 12 := by
  have h := packFields_toNat (eventType w) (eventParam w)
  rw [packFields_eventType_eventParam] at h
  omega

theorem eventParam_toNat (w : Half) : (eventParam w).toNat = w.toNat % 2 ^ 12 := by
  have h := packFields_toNat (eventType w) (eventParam w)
  rw [packFields_eventType_eventParam] at h
  omega

theorem ofNat_append (high low : Half) : BitVec.ofNat 32 (2 ^ 16 * high.toNat + low.toNat) = high ++ low := by
  rw [← append_toNat, BitVec.ofNat_toNat, BitVec.setWidth_eq]

/-! DEC_WORD and DEC_RESET (R150, R151). -/

/-- In IDLE, DEC_WORD feeds the word in ARG0[15:0] to the decoder. -/
theorem exec_decWord_of_idle (hs : s.seqPhase = .idle) :
    exec .decWord s = .next (feed (s.arg0.setWidth 16) (taggedEffect (s.arg0.setWidth 16)) s) :=
  exec_of_idle hs .decWord

/-- A tagged word's effect in IDLE, by its type as a number (R101, R107, R117). -/
theorem taggedEffect_of_idle (hs : s.seqPhase = .idle) (w : Half) :
    let t := w.toNat / 2 ^ 12
    let p : Word := BitVec.ofNat 32 (w.toNat % 2 ^ 12)
    taggedEffect w s =
      if t = 0 then { s with host := { s.host with res0 := 1, res1 := p } }
      else if t = 1 then
        { s with decXy := !s.decXy, host := { s.host with res0 := if s.decXy then 3 else 2, res1 := p } }
      else if t = 3 then { s with host := { s.host with res0 := 4, res1 := p } }
      else if t = 4 then { s with host := { s.host with res0 := 5, res1 := p } }
      else if t = 5 then { s with decPhase := .hi, host := { s.host with res0 := 0, res1 := 0 } }
      else { s with decErr := true, host := { s.host with res0 := 7, res1 := BitVec.ofNat 32 w.toNat } } := by
  dsimp only
  rw [← eventType_toNat, ← eventParam_toNat, BitVec.ofNat_toNat, BitVec.ofNat_toNat]
  unfold taggedEffect
  split
  case h_2 h =>
    rw [h, token_of_idle (by exact hs)]
    cases s.decXy <;> rfl
  case h_6 =>
    rw [if_neg ‹_›, if_neg ‹_›, if_neg ‹_›, if_neg ‹_›, if_neg ‹_›, State.reservedToken, token_of_idle (by exact hs)]
    rfl
  all_goals
    rw [‹(eventType w).toNat = _›, token_of_idle (by exact hs)]
    rfl

/-- Settles O29: the word is raw in HI and LO, and in TAG its type says what it does. -/
theorem decWordFollowsThePhase : Obligations.DecWordFollowsThePhase := by
  intro s hs w t p
  have hw : w = (s.arg0.setWidth 16).toNat := (BitVec.toNat_setWidth ..).symm
  rw [exec_decWord_of_idle hs]
  unfold feed
  cases hd : s.decPhase with
  | tag =>
    dsimp only
    rw [taggedEffect_of_idle hs, ← hw, hd]
  | hi =>
    dsimp only
    rw [token_of_idle (by exact hs), hw, BitVec.ofNat_toNat, BitVec.setWidth_eq]
    rfl
  | lo =>
    dsimp only
    rw [token_of_idle (by exact hs), hw, ofNat_append]
    rfl

/-- Settles O31: in IDLE the command's rule is accepted, and it writes three registers. -/
theorem decResetRestartsTheDecoder : Obligations.DecResetRestartsTheDecoder :=
  fun _ hs => exec_of_idle hs .decReset

/-! Timestamp frames fed back to the decoder (R153 laws 1 and 2). -/

/-- A word placed in the host port's ARG0, as `feedWord` places it. -/
def State.loadWord (s : State) (w : Half) : State := { s with host := { s.host with arg0 := w.setWidth 32 } }

theorem feedWord_eq (hs : s.seqPhase = .idle) (w : Half) :
    feedWord w s = .next (feed w (taggedEffect w) (s.loadWord w)) := by
  have hload : (s.loadWord w).seqPhase = .idle := hs
  have harg : (s.loadWord w).arg0.setWidth 16 = w := by
    rw [State.arg0, livePort_of_idle hload]
    show (w.setWidth 32).setWidth 16 = w
    rw [BitVec.setWidth_setWidth_of_le _ (by decide), BitVec.setWidth_eq]
  rw [show feedWord w s = exec .decWord (s.loadWord w) from rfl, exec_decWord_of_idle hload, harg]

theorem feedWord_of_tag (hs : s.seqPhase = .idle) (hd : s.decPhase = .tag) (w : Half) :
    feedWord w s = .next (taggedEffect w (s.loadWord w)) := by
  rw [feedWord_eq hs, feed, show (s.loadWord w).decPhase = .tag from hd]

theorem feedWord_delta (hs : s.seqPhase = .idle) (hd : s.decPhase = .tag) (d : Nat) :
    feedWord (pack 0 d) s = .next { s.loadWord (pack 0 d) with
      host := { (s.loadWord (pack 0 d)).host with res0 := 1, res1 := (BitVec.ofNat 12 d).setWidth 32 } } := by
  rw [feedWord_of_tag hs hd, pack, taggedEffect_packFields]
  exact congrArg Host.Outcome.next (token_of_idle (by exact hs) _ _)

theorem feedWord_marker (hs : s.seqPhase = .idle) (hd : s.decPhase = .tag) :
    feedWord (pack 5 0) s = .next { s.loadWord (pack 5 0) with
      decPhase := .hi, host := { (s.loadWord (pack 5 0)).host with res0 := 0, res1 := 0 } } := by
  rw [feedWord_of_tag hs hd]
  exact congrArg Host.Outcome.next (token_of_idle (by exact hs) _ _)

theorem feedWord_of_hi (hs : s.seqPhase = .idle) (hd : s.decPhase = .hi) (w : Half) :
    feedWord w s = .next { s.loadWord w with
      decHi := w, decPhase := .lo, host := { (s.loadWord w).host with res0 := 0, res1 := 0 } } := by
  rw [feedWord_eq hs, feed, show (s.loadWord w).decPhase = .hi from hd]
  exact congrArg Host.Outcome.next (token_of_idle (by exact hs) _ _)

theorem feedWord_of_lo (hs : s.seqPhase = .idle) (hd : s.decPhase = .lo) (w : Half) :
    feedWord w s = .next { s.loadWord w with
      decPhase := .tag, host := { (s.loadWord w).host with res0 := 6, res1 := s.decHi ++ w } } := by
  rw [feedWord_eq hs, feed, show (s.loadWord w).decPhase = .lo from hd]
  exact congrArg Host.Outcome.next (token_of_idle (by exact hs) _ _)

theorem tsFrame_short {now lt : Word} (h : (now - lt).toNat ≤ 4095) (c : Clock) :
    tsFrame now lt true c = ([pack 0 (now - lt).toNat], c) := by
  unfold tsFrame
  rw [if_neg (by simp), if_pos h]

theorem tsFrame_long {now lt : Word} (h : 4095 < (now - lt).toNat) (c : Clock) :
    tsFrame now lt true c = (absFrame (absTime c.sampleWall.1), c.sampleWall.2) := by
  unfold tsFrame
  rw [if_neg (by simp), if_neg (not_le.mpr h)]

theorem absTime_eq_ofNat (w : Word) : absTime w = BitVec.ofNat 32 (w.toNat + 2177452800) := by
  rw [absTime, BitVec.ofNat_add, BitVec.ofNat_toNat, BitVec.setWidth_eq]

theorem halves_append (a : Word) : a.extractLsb' 16 16 ++ a.extractLsb' 0 16 = a := by
  apply BitVec.eq_of_toNat_eq
  rw [append_toNat, BitVec.extractLsb'_toNat, BitVec.extractLsb'_toNat, Nat.shiftRight_zero, Nat.shiftRight_eq_div_pow]
  omega

/-- A delta fed in phase TAG is returned whole. -/
theorem feedWord_delta_returns (hs : s.seqPhase = .idle) (hd : s.decPhase = .tag) {d : Nat} (h : d ≤ 4095) :
    ∃ t, feedWord (pack 0 d) s = .next t ∧ t.host.res0 = 1 ∧ t.host.res1.toNat = d ∧ t.decPhase = .tag := by
  refine ⟨_, feedWord_delta hs hd d, rfl, ?_, hd⟩
  show ((BitVec.ofNat 12 d).setWidth 32).toNat = d
  rw [BitVec.toNat_setWidth_of_le (by decide), BitVec.toNat_ofNat, Nat.mod_eq_of_lt (by omega)]

/-- The marker and two raw words fed in phase TAG return NONE, NONE and the raw words as one. -/
theorem feedWord_absFrame_returns (hs : s.seqPhase = .idle) (hd : s.decPhase = .tag) (high low : Half) :
    ∃ t0 t1 t2, feedWord (pack 5 0) s = .next t0 ∧ feedWord high t0 = .next t1 ∧ feedWord low t1 = .next t2
      ∧ t0.host.res0 = 0 ∧ t1.host.res0 = 0 ∧ t2.host.res0 = 6 ∧ t2.host.res1 = high ++ low ∧ t2.decPhase = .tag :=
  ⟨_, _, _, feedWord_marker hs hd, feedWord_of_hi (by exact hs) rfl high, feedWord_of_lo (by exact hs) rfl low,
    rfl, rfl, rfl, rfl, rfl⟩

/-- Settles O28: a short frame is one tagged word, and a long one takes the decoder through HI and LO back to TAG. -/
theorem framesRoundTripThroughTheDecoder : Obligations.FramesRoundTripThroughTheDecoder := by
  intro s now lt c hs hd
  dsimp only
  rw [← word_sub_toNat, ← absTime_eq_ofNat]
  generalize ha : absTime c.sampleWall.1 = a
  refine ⟨fun h => ?_, fun h => ?_⟩
  · obtain ⟨t, ht, hres⟩ := feedWord_delta_returns hs hd h
    exact ⟨_, t, tsFrame_short h c, ht, hres⟩
  · obtain ⟨t0, t1, t2, h0, h1, h2, hr0, hr1, hr2, hvalue, hphase⟩ :=
      feedWord_absFrame_returns hs hd (a.extractLsb' 16 16) (a.extractLsb' 0 16)
    rw [halves_append] at hvalue
    refine ⟨_, _, _, t0, t1, t2, ?_, rfl, ?_, h0, h1, h2, hr0, hr1, hr2, hvalue, hphase⟩
    · rw [tsFrame_long h, ha]
      rfl
    · rw [Nat.mul_comm, ← append_toNat, halves_append]

end Sys2Proof.Machine
end

section
/-! The keyboard family (41_keyboard.md), part 1: the event lists. Every event of a key is legal, and each path of the
raw and the cooked decoder, in the order of the checks, is one equation. -/

namespace Sys2Proof.Machine

open Sys2Proof.Claims

/-! Legal events (R142): the parameter of a key's event is a byte or one of the three synthetic parameters. -/

theorem legal_downEvent {p : Nat} (hp : p ≤ 4095) : (downEvent p).legal := ⟨.inr (.inl rfl), hp⟩

theorem legal_upEvent {p : Nat} (hp : p ≤ 4095) : (upEvent p).legal := ⟨.inr (.inr rfl), hp⟩

theorem legal_toggleEvent (caps : Bool) {p : Nat} (hp : p ≤ 4095) : (toggleEvent caps p).legal := by
  cases caps
  · exact legal_upEvent hp
  · exact legal_downEvent hp

theorem byte_le_4095 (b : Byte) : b.toNat ≤ 4095 := by omega

theorem keyPair_legal (c : Byte) : ∀ e ∈ keyPair c, e.legal := by
  simp only [keyPair, List.forall_mem_cons]
  exact ⟨legal_downEvent (byte_le_4095 c), legal_upEvent (byte_le_4095 c), by simp⟩

theorem tableEvents_legal (entry : Byte) : ∀ e ∈ tableEvents entry, e.legal := by
  unfold tableEvents
  split
  · simp
  · exact keyPair_legal entry

theorem altEvents_legal (cfg : Config) (b : Byte) : ∀ e ∈ altEvents cfg b, e.legal := by
  unfold altEvents
  split
  · exact tableEvents_legal _
  · simp

theorem ctrlBracket_legal (b : Byte) : ∀ e ∈ ctrlBracket b, e.legal := by
  simp only [ctrlBracket, List.forall_mem_cons]
  exact ⟨legal_downEvent (by decide), legal_downEvent (byte_le_4095 b), legal_upEvent (byte_le_4095 b),
    legal_upEvent (by decide), by simp⟩

theorem tableKeyEvents_legal (cfg : Config) (scan : Nat) (mods : Byte) :
    ∀ e ∈ tableKeyEvents cfg scan mods, e.legal := by
  unfold tableKeyEvents
  dsimp only
  split_ifs
  · simp
  · exact altEvents_legal cfg _
  · exact ctrlBracket_legal _
  · simp
  · exact tableEvents_legal _
  · exact tableEvents_legal _

theorem rawKeyEvents_legal (cfg : Config) (undecoded caps : Bool) (scan : Nat) (mods : Byte) :
    ∀ e ∈ rawKeyEvents cfg undecoded caps scan mods, e.legal := by
  unfold rawKeyEvents
  split_ifs
  · simp
  · exact List.forall_mem_singleton.mpr (legal_toggleEvent _ (by decide))
  · exact List.forall_mem_singleton.mpr (legal_toggleEvent _ (by omega))
  · simp
  · exact tableKeyEvents_legal cfg scan mods

/-- One side of a bracket, where its flag is set. -/
theorem bracket_legal (flag : Bool) {side : Event} (hside : side.legal) :
    ∀ e ∈ (if flag then [side] else []), e.legal := by
  cases flag
  · simp
  · exact List.forall_mem_singleton.mpr hside

theorem cookedKeyEvents_legal {b : Nat} (hb : b ≤ 4095) (ctrl mta : Bool) :
    ∀ e ∈ cookedKeyEvents b ctrl mta, e.legal := by
  have hpayload : ∀ e ∈ [downEvent b, upEvent b], e.legal :=
    List.forall_mem_cons.mpr ⟨legal_downEvent hb, List.forall_mem_singleton.mpr (legal_upEvent hb)⟩
  simp only [cookedKeyEvents, List.forall_mem_append]
  exact ⟨⟨⟨⟨bracket_legal ctrl (legal_downEvent (by decide)), bracket_legal mta (legal_downEvent (by decide))⟩,
    hpayload⟩, bracket_legal mta (legal_upEvent (by decide))⟩, bracket_legal ctrl (legal_upEvent (by decide))⟩

/-! The checks as the statements write them (R171, R172). -/

theorem held_iff {mods mask : Byte} : held mods mask = true ↔ mods &&& mask ≠ 0 := bne_iff_ne

theorem isLetter_iff {b : Byte} : isLetter b = true ↔ letterCode b.toNat := by
  simp only [isLetter, Bool.or_eq_true, Bool.and_eq_true, decide_eq_true_eq]

/-! The table lookups (R177, R184). -/

theorem tableEvents_of_ne {entry : Byte} (h : entry ≠ 0) : tableEvents entry = keyPair entry := if_neg h

theorem altEvents_of_listed {cfg : Config} {b : Byte} (hlo : 1 ≤ b.toNat) (hhi : b.toNat ≤ 127) :
    altEvents cfg b = tableEvents (cfg.altTable.read b.toNat) := if_pos ⟨hlo, hhi⟩

theorem altEvents_eq_nil {cfg : Config} {b : Byte}
    (h : b = 0 ∨ 127 < b.toNat ∨ cfg.altTable.read b.toNat = 0) : altEvents cfg b = [] := by
  unfold altEvents
  split
  next hlisted =>
    obtain ⟨hlo, hhi⟩ := hlisted
    rcases h with rfl | h | h
    · exact absurd hlo (by decide)
    · omega
    · exact if_pos h
  next => rfl

/-! The paths of scan codes 0 to 127, in the order of the checks (R176 to R181). -/

section TablePaths

variable {cfg : Config} {scan : Nat} {mods : Byte}

/-- The checks of R172 in order, each as the statements write it. -/
theorem tableKeyEvents_eq :
    tableKeyEvents cfg scan mods =
      if mods &&& cfg.metaMask ≠ 0 then []
      else if mods &&& cfg.altMask ≠ 0 then altEvents cfg (cfg.baseTable.read scan)
      else if mods &&& cfg.ctrlMask ≠ 0 ∧ letterCode (cfg.baseTable.read scan).toNat then
        ctrlBracket (cfg.baseTable.read scan)
      else if mods &&& cfg.ctrlMask ≠ 0 ∧ cfg.ctrlNonletter = .ignore then []
      else if mods &&& cfg.shiftMask ≠ 0 then tableEvents (cfg.shiftTable.read scan)
      else tableEvents (cfg.baseTable.read scan) := by
  simp only [tableKeyEvents, held_iff, Bool.and_eq_true, isLetter_iff, beq_iff_eq]

theorem tableKeyEvents_of_meta (hmeta : mods &&& cfg.metaMask ≠ 0) : tableKeyEvents cfg scan mods = [] := by
  rw [tableKeyEvents_eq, if_pos hmeta]

variable (hmeta : mods &&& cfg.metaMask = 0)
include hmeta

theorem tableKeyEvents_of_alt (halt : mods &&& cfg.altMask ≠ 0) :
    tableKeyEvents cfg scan mods = altEvents cfg (cfg.baseTable.read scan) := by
  rw [tableKeyEvents_eq, if_neg (not_not.mpr hmeta), if_pos halt]

variable (halt : mods &&& cfg.altMask = 0)
include halt

theorem tableKeyEvents_of_ctrl_letter (hctrl : mods &&& cfg.ctrlMask ≠ 0)
    (hletter : letterCode (cfg.baseTable.read scan).toNat) :
    tableKeyEvents cfg scan mods = ctrlBracket (cfg.baseTable.read scan) := by
  rw [tableKeyEvents_eq, if_neg (not_not.mpr hmeta), if_neg (not_not.mpr halt), if_pos ⟨hctrl, hletter⟩]

theorem tableKeyEvents_of_ctrl_ignored (hctrl : mods &&& cfg.ctrlMask ≠ 0)
    (hletter : ¬ letterCode (cfg.baseTable.read scan).toNat) (hignore : cfg.ctrlNonletter = .ignore) :
    tableKeyEvents cfg scan mods = [] := by
  rw [tableKeyEvents_eq, if_neg (not_not.mpr hmeta), if_neg (not_not.mpr halt), if_neg (fun h => hletter h.2),
    if_pos ⟨hctrl, hignore⟩]

/-- Without control, or where control falls through on a character that is no letter, shift chooses the table. -/
theorem tableKeyEvents_of_fallthrough
    (hfall : mods &&& cfg.ctrlMask = 0
      ∨ (¬ letterCode (cfg.baseTable.read scan).toNat ∧ cfg.ctrlNonletter = .fallthrough)) :
    tableKeyEvents cfg scan mods =
      if mods &&& cfg.shiftMask ≠ 0 then tableEvents (cfg.shiftTable.read scan)
      else tableEvents (cfg.baseTable.read scan) := by
  have hbracket : ¬ (mods &&& cfg.ctrlMask ≠ 0 ∧ letterCode (cfg.baseTable.read scan).toNat) := by
    rintro ⟨hctrl, hletter⟩
    rcases hfall with h | ⟨h, -⟩
    · exact hctrl h
    · exact h hletter
  have hignored : ¬ (mods &&& cfg.ctrlMask ≠ 0 ∧ cfg.ctrlNonletter = .ignore) := by
    rintro ⟨hctrl, hignore⟩
    rcases hfall with h | ⟨-, h⟩
    · exact hctrl h
    · rw [hignore] at h
      cases h
  rw [tableKeyEvents_eq, if_neg (not_not.mpr hmeta), if_neg (not_not.mpr halt), if_neg hbracket, if_neg hignored]

/-- An empty entry of the table shift chooses, where no bracket is made: nothing, also where control is ignored. -/
theorem tableKeyEvents_of_empty
    (hbracket : mods &&& cfg.ctrlMask = 0 ∨ ¬ letterCode (cfg.baseTable.read scan).toNat)
    (hempty : (mods &&& cfg.shiftMask ≠ 0 ∧ cfg.shiftTable.read scan = 0)
      ∨ (mods &&& cfg.shiftMask = 0 ∧ cfg.baseTable.read scan = 0)) :
    tableKeyEvents cfg scan mods = [] := by
  have hlookup : (if mods &&& cfg.shiftMask ≠ 0 then tableEvents (cfg.shiftTable.read scan)
      else tableEvents (cfg.baseTable.read scan)) = [] := by
    rcases hempty with ⟨hshift, hentry⟩ | ⟨hshift, hentry⟩
    · rw [if_pos hshift]
      exact if_pos hentry
    · rw [if_neg (not_not.mpr hshift)]
      exact if_pos hentry
  rcases eq_or_ne (mods &&& cfg.ctrlMask) 0 with hctrl | hctrl
  · rw [tableKeyEvents_of_fallthrough hmeta halt (.inl hctrl), hlookup]
  · have hletter := hbracket.resolve_left hctrl
    cases hpolicy : cfg.ctrlNonletter with
    | fallthrough => rw [tableKeyEvents_of_fallthrough hmeta halt (.inr ⟨hletter, hpolicy⟩), hlookup]
    | ignore => exact tableKeyEvents_of_ctrl_ignored hmeta halt hctrl hletter hpolicy

end TablePaths

/-! The other raw keys (R173 to R175). -/

theorem toggleEvent_eq (caps : Bool) (p : Nat) : toggleEvent caps p = ⟨if caps then 3 else 4, p⟩ := by
  cases caps <;> rfl

section RawPaths

variable {cfg : Config} {undecoded caps : Bool} {scan : Nat} {mods : Byte}

theorem rawKeyEvents_of_capslock (h : scan = cfg.capslockScan.toNat) :
    rawKeyEvents cfg undecoded caps scan mods = [⟨if caps then 4 else 3, 139⟩] := by
  have hbyte : ¬ 255 < scan := by omega
  rw [rawKeyEvents, if_neg hbyte, if_pos h, toggleEvent_eq]
  cases caps <;> rfl

theorem rawKeyEvents_of_gt (h : 255 < scan) : rawKeyEvents cfg undecoded caps scan mods = [] := if_pos h

theorem rawKeyEvents_of_high (hlo : 127 < scan) (hhi : scan ≤ 255) (hcaps : scan ≠ cfg.capslockScan.toNat) :
    rawKeyEvents cfg undecoded caps scan mods = if undecoded then [⟨if caps then 3 else 4, scan⟩] else [] := by
  rw [rawKeyEvents, if_neg (not_lt.mpr hhi), if_neg hcaps, if_pos hlo, toggleEvent_eq]

/-- With UNDECODED = 0 no code above 127 but caps lock has an event, in range or not. -/
theorem rawKeyEvents_of_decoded (hlo : 127 < scan) (hcaps : scan ≠ cfg.capslockScan.toNat) :
    rawKeyEvents cfg false caps scan mods = [] := by
  rcases lt_or_ge 255 scan with hgt | hhi
  · exact rawKeyEvents_of_gt hgt
  · exact rawKeyEvents_of_high hlo hhi hcaps

theorem rawKeyEvents_of_table (h : scan ≤ 127) (hcaps : scan ≠ cfg.capslockScan.toNat) :
    rawKeyEvents cfg undecoded caps scan mods = tableKeyEvents cfg scan mods := by
  have hbyte : ¬ 255 < scan := by omega
  rw [rawKeyEvents, if_neg hbyte, if_neg hcaps, if_neg (not_lt.mpr h)]

end RawPaths

/-! The cooked keys (R185). -/

/-- The four flag values: the payload, inside the meta bracket, inside the control bracket. -/
theorem cookedKeyEvents_eq {f : Word} (hf : f.toNat ≤ 3) (b : Nat) :
    let payload : List Event := [⟨3, b⟩, ⟨4, b⟩]
    let withMeta : List Event := [⟨3, 136⟩] ++ payload ++ [⟨4, 136⟩]
    cookedKeyEvents b (f.getLsbD 0) (f.getLsbD 1) =
      if f = 0 then payload
      else if f = 1 then [⟨3, 138⟩] ++ payload ++ [⟨4, 138⟩]
      else if f = 2 then withMeta
      else [⟨3, 138⟩] ++ withMeta ++ [⟨4, 138⟩] := by
  obtain rfl | rfl | rfl | rfl : f = 0 ∨ f = 1 ∨ f = 2 ∨ f = 3 := by bv_omega
  all_goals rfl

end Sys2Proof.Machine
end

section
/-! The keyboard family (41_keyboard.md), part 2: KEY_RAW and KEY_COOKED in IDLE are a group of their key's events, and
the command of the absent mode faults. -/

namespace Sys2Proof.Machine

open Sys2Proof.Claims

variable {s t : State}

/-- A command that ends in a group of legal events faults for want of a signal alone (40_event_codec.md R140). -/
theorem complete_emitGroup {events : List Event} (hlegal : ∀ e ∈ events, e.legal) :
    complete s (emitGroup events t) = .next (groupAfter s t events) := by
  have hfits : ¬ ∃ e ∈ events, 15 < e.type ∨ 4095 < e.param := by
    rintro ⟨e, he, hout⟩
    obtain ⟨htype, hparam⟩ := hlegal e he
    omega
  rw [emitGroupChecksThenQueuesOrDropsWhole, if_neg hfits]
  unfold groupAfter
  split_ifs <;> rfl

@[simp] theorem groupAfter_nil (s t : State) : groupAfter s t [] = t := rfl

/-! KEY_RAW (R170, R172). -/

theorem exec_keyRaw_of_idle (hs : s.seqPhase = .idle) (hm : s.cfg.kbdMode = .raw) :
    exec .keyRaw s = .next (groupAfter s
      { s with modState := s.arg1.setWidth 8, caps := rawKeyCaps s.cfg s.caps s.arg0.toNat }
      (rawKeyEvents s.cfg s.undecoded s.caps s.arg0.toNat (s.arg1.setWidth 8))) := by
  rw [exec_of_idle hs, show ruleOf .keyRaw s = keyRaw s.arg0 s.arg1 s from rfl, keyRaw, if_neg (not_not.mpr hm)]
  exact complete_emitGroup (rawKeyEvents_legal _ _ _ _ _)

/-- No key but caps lock writes CAPS (R173). -/
theorem exec_keyRaw_of_ne_capslock (hs : s.seqPhase = .idle) (hm : s.cfg.kbdMode = .raw)
    (hcaps : s.arg0.toNat ≠ s.cfg.capslockScan.toNat) :
    exec .keyRaw s = .next (groupAfter s { s with modState := s.arg1.setWidth 8 }
      (rawKeyEvents s.cfg s.undecoded s.caps s.arg0.toNat (s.arg1.setWidth 8))) := by
  rw [exec_keyRaw_of_idle hs hm, rawKeyCaps, if_neg hcaps]

theorem exec_keyRaw_of_table (hs : s.seqPhase = .idle) (hm : s.cfg.kbdMode = .raw) (hscan : s.arg0.toNat ≤ 127)
    (hcaps : s.arg0.toNat ≠ s.cfg.capslockScan.toNat) :
    exec .keyRaw s = .next (groupAfter s { s with modState := s.arg1.setWidth 8 }
      (tableKeyEvents s.cfg s.arg0.toNat (s.arg1.setWidth 8))) := by
  rw [exec_keyRaw_of_ne_capslock hs hm hcaps, rawKeyEvents_of_table hscan hcaps]

/-- Settles O32: on each of these paths the key has no event, and an empty group needs no signal. -/
theorem ignoredRawKeysWriteOnlyModState : Obligations.IgnoredRawKeysWriteOnlyModState := by
  intro s hs hm scan mods b h
  have hignored (hcaps : scan ≠ s.cfg.capslockScan.toNat)
      (hnone : rawKeyEvents s.cfg s.undecoded s.caps scan mods = []) :
      exec .keyRaw s = .next { s with modState := mods } := by
    rw [exec_keyRaw_of_ne_capslock hs hm hcaps, hnone, groupAfter_nil]
  have htable (hcaps : scan ≠ s.cfg.capslockScan.toNat) (hscan : scan ≤ 127)
      (hnone : tableKeyEvents s.cfg scan mods = []) : exec .keyRaw s = .next { s with modState := mods } :=
    hignored hcaps ((rawKeyEvents_of_table hscan hcaps).trans hnone)
  rcases h with hgt | ⟨hcaps, hscan, hdecoded⟩ | ⟨hcaps, hscan, hmeta⟩ | ⟨hcaps, hscan, hmeta, halt, hnone⟩
    | ⟨hcaps, hscan, hmeta, halt, hctrl, hletter, hignore⟩ | ⟨hcaps, hscan, hmeta, halt, hbracket, hempty⟩
  · exact hignored (by omega) (rawKeyEvents_of_gt hgt)
  · exact hignored hcaps (hdecoded ▸ rawKeyEvents_of_decoded hscan hcaps)
  · exact htable hcaps hscan (tableKeyEvents_of_meta hmeta)
  · exact htable hcaps hscan ((tableKeyEvents_of_alt hmeta halt).trans (altEvents_eq_nil hnone))
  · exact htable hcaps hscan (tableKeyEvents_of_ctrl_ignored hmeta halt hctrl hletter hignore)
  · exact htable hcaps hscan (tableKeyEvents_of_empty hmeta halt hbracket hempty)

/-- Settles O33: caps lock is the one key that writes CAPS, and its word follows CAPS after it; the word of an
undecoded code follows CAPS as it stands. -/
theorem capsDrivesCapsLockAndUndecodedWords : Obligations.CapsDrivesCapsLockAndUndecodedWords := by
  refine fun s hs hm => ⟨fun hcaps => ?_, fun hlo hhi hcaps => ?_⟩
  · rw [exec_keyRaw_of_idle hs hm, rawKeyEvents_of_capslock hcaps, rawKeyCaps, if_pos hcaps, flipBit]
  · rw [exec_keyRaw_of_ne_capslock hs hm hcaps, rawKeyEvents_of_high hlo hhi hcaps]

/-- Settles O34: control on a letter is the path after meta and alt, and shift is not looked at. -/
theorem controlLetterEmitsTheBracket : Obligations.ControlLetterEmitsTheBracket := by
  intro s hs hm hscan hcaps mods b hmeta halt hctrl hletter
  rw [exec_keyRaw_of_table hs hm hscan hcaps, tableKeyEvents_of_ctrl_letter hmeta halt hctrl hletter]
  rfl

/-- Settles O35: past meta the alt path looks the base character up, and past control shift chooses the table. -/
theorem tableKeysEmitDownUpPairs : Obligations.TableKeysEmitDownUpPairs := by
  intro s hs hm hscan hcaps mods b sh t pair hmeta
  rw [exec_keyRaw_of_table hs hm hscan hcaps]
  refine ⟨fun halt hlo hhi hentry => ?_, fun halt hfall => ⟨fun hshift hentry => ?_, fun hshift hentry => ?_⟩⟩
  · rw [tableKeyEvents_of_alt hmeta halt, altEvents_of_listed hlo hhi, tableEvents_of_ne hentry]
    rfl
  · rw [tableKeyEvents_of_fallthrough hmeta halt hfall, if_pos hshift, tableEvents_of_ne hentry]
    rfl
  · rw [tableKeyEvents_of_fallthrough hmeta halt hfall, if_neg (not_not.mpr hshift), tableEvents_of_ne hentry]
    rfl

/-! KEY_COOKED (R170, R185). -/

/-- A malformed cooked key (R185) is an empty group. -/
theorem exec_keyCooked_of_idle (hs : s.seqPhase = .idle) (hm : s.cfg.kbdMode = .cooked) :
    exec .keyCooked s = .next (groupAfter s s
      (if s.arg0 = 0 ∨ 255 < s.arg0.toNat ∨ 3 < s.arg1.toNat then []
       else cookedKeyEvents s.arg0.toNat (s.arg1.getLsbD 0) (s.arg1.getLsbD 1))) := by
  rw [exec_of_idle hs, show ruleOf .keyCooked s = keyCooked s.arg0 s.arg1 s from rfl, keyCooked,
    if_neg (not_not.mpr hm)]
  split
  next => rfl
  next hvalid => exact complete_emitGroup (cookedKeyEvents_legal (by omega) _ _)

/-- Settles O36: a malformed key is an empty group, and the four flag values nest the payload. -/
theorem cookedKeysNestTheirBrackets : Obligations.CookedKeysNestTheirBrackets := by
  intro s hs hm b payload withMeta
  have hzero : s.arg0 = 0 ↔ b = 0 := BitVec.toNat_inj.symm
  rw [exec_keyCooked_of_idle hs hm]
  simp only [hzero]
  split
  next => rfl
  next hvalid => rw [cookedKeyEvents_eq (by omega)]

/-! The command of the absent mode (R170, 30_encoding.md R112). -/

/-- Settles O13: the mode is checked before anything else, and its fault's code is 5. -/
theorem absentKeyboardModeFaults : Obligations.AbsentKeyboardModeFaults := by
  refine fun s hs => ⟨fun hm => ?_, fun hm => ?_⟩
  · have hrule : ruleOf .keyRaw s = .error .illegalCmd := if_pos (by simp [hm])
    rw [exec_of_idle hs, hrule]
    rfl
  · have hrule : ruleOf .keyCooked s = .error .illegalCmd := if_pos (by simp [hm])
    rw [exec_of_idle hs, hrule]
    rfl

end Sys2Proof.Machine
end

section
/-! The mouse family (42_mouse.md), part 1: the buttons and the position as the statements write them, and when a
group of their events faults. -/

namespace Sys2Proof.Machine

open Sys2Proof.Claims

variable {s t : State} {x y : Word}

/-! The buttons (R210 to R212). -/

theorem sample_eq (b : Button) (now : Bool) (code : Byte) :
    b.sample now code = (buttonAfter b now code, buttonEvents b now code) := by
  obtain ⟨down, latched⟩ := b
  cases now <;> cases down <;> rfl

theorem getLsbD_eq_maskBit (mask : Word) (i : Nat) : mask.getLsbD i = maskBit mask (2 ^ i) :=
  Nat.testBit_eq_decide_div_mod_eq

theorem buttonEvents_eq_maskEvents (s : State) (mask : Word) : s.buttonEvents mask = maskEvents mask s := by
  simp only [State.buttonEvents, sample_eq, getLsbD_eq_maskBit]
  rfl

theorem sampleButtons_eq_withButtons (s : State) (mask : Word) : s.sampleButtons mask = withButtons mask s := by
  simp only [State.sampleButtons, sample_eq, getLsbD_eq_maskBit]
  rfl

/-- A button's event carries a byte, the press code or the latched one (R142). -/
theorem buttonEvents_legal (b : Button) (now : Bool) (code : Byte) : ∀ e ∈ buttonEvents b now code, e.legal := by
  unfold buttonEvents
  split_ifs
  · exact List.forall_mem_singleton.mpr (legal_downEvent (byte_le_4095 code))
  · exact List.forall_mem_singleton.mpr (legal_upEvent (byte_le_4095 b.code))
  · exact List.forall_mem_nil _

theorem maskEvents_legal (mask : Word) (s : State) : ∀ e ∈ maskEvents mask s, e.legal := by
  simp only [maskEvents, List.forall_mem_append]
  exact ⟨⟨buttonEvents_legal _ _ _, buttonEvents_legal _ _ _⟩, buttonEvents_legal _ _ _⟩

theorem buttonCode_of_no_exception {cfg : Config} (h : cfg.buttonCodes = []) (i : Nat) (mods : Byte) :
    buttonCode cfg i mods = defaultButtonCode i := by
  rw [buttonCode, h]
  rfl

/-! The position (R213). -/

theorem ne_setWidth_iff (v : Word) (h : Half) : v ≠ h.setWidth 32 ↔ v.toNat ≠ h.toNat := by
  rw [ne_eq, ← BitVec.toNat_inj, BitVec.toNat_setWidth_of_le (by decide)]

theorem motionReported_iff : s.motionReported x y = true ↔ reported x y s := by
  simp only [State.motionReported, Bool.or_eq_true, beq_iff_eq, Bool.not_eq_true', bne_iff_ne, ne_setWidth_iff,
    or_assoc]

theorem motionEvents_eq_positionEvents (s : State) (x y : Word) : s.motionEvents x y = positionEvents x y s := by
  simp only [State.motionEvents, positionEvents, motionReported_iff]

theorem positionEvents_of_reported (hr : reported x y s) : positionEvents x y s = [⟨1, x.toNat⟩, ⟨1, y.toNat⟩] :=
  if_pos hr

theorem positionEvents_of_unreported (hr : ¬ reported x y s) : positionEvents x y s = [] := if_neg hr

theorem samplePosition_of_reported (hr : reported x y s) : s.samplePosition x y = positionReported x y s := by
  rw [State.samplePosition, if_pos (motionReported_iff.mpr hr)]
  simp only [positionReported, cursorAt, BitVec.ofNat_toNat]
  rfl

theorem samplePosition_of_unreported (hr : ¬ reported x y s) : s.samplePosition x y = cursorAt x y s := by
  rw [State.samplePosition, if_neg (mt motionReported_iff.mp hr)]
  simp only [cursorAt, BitVec.ofNat_toNat]
  rfl

/-- A coordinate event is legal where the coordinate fits the parameter field (R142). -/
theorem positionEvents_legal (hx : x.toNat ≤ 4095) (hy : y.toNat ≤ 4095) :
    ∀ e ∈ positionEvents x y s, e.legal := by
  unfold positionEvents
  split_ifs
  · exact List.forall_mem_cons.mpr ⟨⟨.inl rfl, hx⟩, List.forall_mem_singleton.mpr ⟨.inl rfl, hy⟩⟩
  · exact List.forall_mem_nil _

/-! A command that ends in a group, by the checks of EmitGroup (40_event_codec.md R140). -/

section Group

variable {events : List Event}

theorem complete_emitGroup_of_no_signal (hne : events ≠ []) (hsig : t.inSig = 0) :
    complete s (emitGroup events t) = .next (faultedWith s 1) := by
  rw [emitGroupChecksThenQueuesOrDropsWhole, if_neg hne, if_pos hsig]
  rfl

theorem complete_emitGroup_of_outOfRange (hsig : t.inSig ≠ 0) (hout : ∃ e ∈ events, 15 < e.type ∨ 4095 < e.param) :
    complete s (emitGroup events t) = .next (faultedWith s 3) := by
  have hne : events ≠ [] := hout.elim fun _ h => List.ne_nil_of_mem h.1
  rw [emitGroupChecksThenQueuesOrDropsWhole, if_neg hne, if_neg hsig, if_pos hout]
  rfl

theorem complete_emitGroup_of_signal (hne : events ≠ []) (hsig : t.inSig ≠ 0) (hlegal : ∀ e ∈ events, e.legal) :
    complete s (emitGroup events t) = .next (queued events t) := by
  rw [complete_emitGroup hlegal, groupAfter, if_neg hne, if_neg hsig]

end Group

/-- A group that begins with a reported position, in every case: what follows the position is legal, so the
coordinates alone can be out of range. -/
theorem complete_emitGroup_of_reported (hr : reported x y s) (hkept : t.inSig = s.inSig) {rest : List Event}
    (hrest : ∀ e ∈ rest, e.legal) :
    let events := positionEvents x y s ++ rest
    (s.inSig = 0 → complete s (emitGroup events t) = .next (faultedWith s 1))
    ∧ (s.inSig ≠ 0 → 4095 < x.toNat ∨ 4095 < y.toNat → complete s (emitGroup events t) = .next (faultedWith s 3))
    ∧ (s.inSig ≠ 0 → x.toNat ≤ 4095 → y.toNat ≤ 4095 →
        complete s (emitGroup events t) = .next (queued events t)) := by
  intro events
  have hevents : events = ⟨1, x.toNat⟩ :: ⟨1, y.toNat⟩ :: rest := by
    simp only [events, positionEvents_of_reported hr, List.cons_append, List.nil_append]
  have hne : events ≠ [] := hevents ▸ List.cons_ne_nil _ _
  rw [← hkept]
  refine ⟨complete_emitGroup_of_no_signal hne, fun hsig hout => ?_, fun hsig hx hy => ?_⟩
  · refine complete_emitGroup_of_outOfRange hsig ?_
    rcases hout with hx | hy
    · exact ⟨⟨1, x.toNat⟩, by simp [hevents], .inr hx⟩
    · exact ⟨⟨1, y.toNat⟩, by simp [hevents], .inr hy⟩
  · exact complete_emitGroup_of_signal hne hsig (List.forall_mem_append.mpr ⟨positionEvents_legal hx hy, hrest⟩)

end Sys2Proof.Machine
end

section
/-! The mouse family (42_mouse.md), part 2: MOUSE_BUTTONS, MOUSE_MOTION and MOUSE_POLL in IDLE are groups of their
events, and MOUSE_POLL is the other two one after the other. -/

namespace Sys2Proof.Machine

open Sys2Proof.Claims

variable {s t : State}

/-! MOUSE_BUTTONS (R211). -/

theorem mouseButtons_eq (mask : Word) (s : State) :
    mouseButtons mask s = emitGroup (maskEvents mask s) (withButtons mask s) := by
  rw [mouseButtons, buttonEvents_eq_maskEvents, sampleButtons_eq_withButtons]

/-- Settles O37: a button's event is legal whatever its code, and with no exception listed the code is the default. -/
theorem buttonsLatchAtPressReplayAtRelease : Obligations.ButtonsLatchAtPressReplayAtRelease := by
  refine fun s hs => ⟨?_, fun hcodes mods => ?_⟩
  · rw [exec_of_idle hs, show ruleOf .mouseButtons s = mouseButtons s.arg0 s from rfl, mouseButtons_eq]
    exact complete_emitGroup (maskEvents_legal _ _)
  · have hdefault (i : Nat) := buttonCode_of_no_exception hcodes i mods
    exact ⟨hdefault 0, hdefault 1, hdefault 2⟩

/-! MOUSE_MOTION (R213). -/

theorem exec_mouseMotion_of_idle (hs : s.seqPhase = .idle) :
    exec .mouseMotion s = complete s
      (emitGroup (positionEvents s.arg0 s.arg1 s) (s.samplePosition s.arg0 s.arg1)) := by
  rw [exec_of_idle hs, ← motionEvents_eq_positionEvents]
  rfl

/-- Settles O38: an unreported position is an empty group; a reported one meets EmitGroup's checks in order. -/
theorem motionReportsXThenY : Obligations.MotionReportsXThenY := by
  intro s hs
  have hgroup (hr : reported s.arg0 s.arg1 s) :=
    complete_emitGroup_of_reported (t := positionReported s.arg0 s.arg1 s) hr rfl (List.forall_mem_nil Event.legal)
  rw [exec_mouseMotion_of_idle hs]
  refine ⟨fun hr => ?_, fun hr => ?_, fun hr => ?_, fun hr => ?_⟩
  · rw [positionEvents_of_unreported hr, samplePosition_of_unreported hr]
    rfl
  all_goals
    obtain ⟨hsignal, hrange, hqueued⟩ := hgroup hr
    rw [List.append_nil] at hsignal hrange hqueued
    rw [samplePosition_of_reported hr]
  · exact hsignal
  · exact hrange
  · exact hqueued

/-! MOUSE_POLL (R214). -/

theorem mousePoll_eq (x y mask : Word) (s : State) :
    mousePoll x y mask s =
      emitGroup (positionEvents x y s ++ maskEvents mask s) (withButtons mask (s.samplePosition x y)) := by
  rw [mousePoll, motionEvents_eq_positionEvents, buttonEvents_eq_maskEvents, sampleButtons_eq_withButtons]

theorem exec_mousePoll_of_idle (hs : s.seqPhase = .idle) :
    exec .mousePoll s = complete s (mousePoll s.arg0 s.arg1 s.arg2 s) := exec_of_idle hs .mousePoll

/-- The buttons' rule neither reads nor writes the host port. -/
theorem mouseButtons_withHost (mask : Word) (s : State) (p : Port) :
    mouseButtons mask { s with host := p } = (mouseButtons mask s).map fun t => { t with host := p } := by
  rw [show { s with host := p } = s.inContext { s.context with host := p } from rfl, mouseButtons_inContext]
  cases h : mouseButtons mask s with
  | error e => rfl
  | ok t =>
    rw [← mouseButtons_context h]
    rfl

theorem idle_of_accepts_classH {p : Phase} (h : p.accepts .H = true) : p = .idle := by
  cases p
  case idle => rfl
  all_goals cases h

/-- A class H command after which the block is in IDLE was accepted in IDLE, and its rule did not fault
(46_sequencer.md R312). -/
theorem ruleOf_of_exec_idle {i : Instr} (hc : i.cls = .H) (h : exec i s = .next t) (ht : t.seqPhase = .idle) :
    s.seqPhase = .idle ∧ ruleOf i s = .ok t := by
  rw [exec_eq_issue, hc] at h
  rcases issue_cases h with ⟨ha, hrule⟩ | ⟨_, _, _, rfl⟩ | ⟨_, _, rfl⟩ | ⟨ha, _, rfl⟩
  · exact ⟨idle_of_accepts_classH ha, hrule⟩
  · cases ht
  · cases ht
  · rw [ht] at ha
    cases ha

/-- MOUSE_MOTION, then MOUSE_BUTTONS with the mask in ARG0: no fault, and room for the words of both (R214). -/
theorem exec_mousePoll_of_calls {u : State} (hs : s.seqPhase = .idle) (hmotion : exec .mouseMotion s = .next t)
    (hbuttons : exec .mouseButtons { t with host := { t.host with arg0 := s.host.arg2 } } = .next u)
    (hu : u.seqPhase = .idle)
    (room : s.qCount + (s.frameEvents (positionEvents s.arg0 s.arg1 s ++ maskEvents s.arg2 s)).words.length
      ≤ s.cfg.qdepth) :
    exec .mousePoll s = .next { u with host := s.host } := by
  obtain ⟨ht, hb⟩ := ruleOf_of_exec_idle rfl hbuttons hu
  obtain ⟨-, hm⟩ := ruleOf_of_exec_idle rfl hmotion ht
  have hmask : ruleOf .mouseButtons { t with host := { t.host with arg0 := s.host.arg2 } }
      = mouseButtons s.arg2 { t with host := { t.host with arg0 := s.host.arg2 } } := by
    show mouseButtons (State.arg0 _) _ = _
    rw [State.arg0, livePort_of_idle ht, State.arg2, livePort_of_idle hs]
    rfl
  rw [← motionEvents_eq_positionEvents, ← buttonEvents_eq_maskEvents] at room
  rw [hmask, mouseButtons_withHost, ← mousePoll_eq_calls hm room] at hb
  rw [exec_mousePoll_of_idle hs]
  cases hpoll : mousePoll s.arg0 s.arg1 s.arg2 s with
  | error e =>
    rw [hpoll] at hb
    cases hb
  | ok v =>
    rw [hpoll] at hb
    cases hb
    rw [← (ports_of_context (mousePoll_context hpoll)).1]
    rfl

/-- Settles O39: the buttons' events follow the position's in one group, and are legal. -/
theorem pollIsMotionThenButtons : Obligations.PollIsMotionThenButtons := by
  intro s hs
  have hgroup (hr : reported s.arg0 s.arg1 s) :=
    complete_emitGroup_of_reported (t := withButtons s.arg2 (positionReported s.arg0 s.arg1 s)) hr rfl
      (maskEvents_legal s.arg2 s)
  have hexec := exec_mousePoll_of_idle hs
  rw [mousePoll_eq] at hexec
  refine ⟨fun hr => ?_, fun hr => ?_, fun hr => ?_, fun hr => ?_, fun t u => exec_mousePoll_of_calls hs⟩
  · rw [hexec, positionEvents_of_unreported hr, samplePosition_of_unreported hr, List.nil_append]
    exact complete_emitGroup (maskEvents_legal _ _)
  all_goals
    obtain ⟨hsignal, hrange, hqueued⟩ := hgroup hr
    rw [hexec, samplePosition_of_reported hr]
  · exact hsignal
  · exact hrange
  · exact hqueued

end Sys2Proof.Machine
end

section
/-! The input-queue family (43_input_queue.md): enqueued words fill the free slots after the held ones in order and
signal by the wake policy, and Q_POP and SET_INPUT_SIGNAL run in IDLE and in RUN as their rules. -/

namespace Sys2Proof.Machine

variable {s : State}

/-! Words enqueued (R231, R45). -/

/-- Enqueuing words leaves everything but the storage, Q_COUNT and the trace. -/
theorem enqueueAll_frame (s : State) (ws : List Half) :
    s.enqueueAll ws = { s with
      q := (s.enqueueAll ws).q, qCount := s.qCount + ws.length, trace := (s.enqueueAll ws).trace } := by
  rw [State.mk.injEq]
  simp

theorem heldWords_enqueueAll {ws : List Half} (hq : s.q.wf = true) (hroom : s.qCount + ws.length ≤ s.cfg.qdepth) :
    (s.enqueueAll ws).heldWords = s.heldWords ++ ws := by
  induction ws generalizing s with
  | nil => rw [State.enqueueAll_nil, List.append_nil]
  | cons w ws ih =>
    rw [List.length_cons] at hroom
    have htail : (s.enqueue w).qCount + ws.length ≤ (s.enqueue w).cfg.qdepth := by
      rw [State.enqueue_qCount, State.enqueue_cfg]
      omega
    rw [State.enqueueAll_cons, ih (enqueue_storage w hq).1 htail, heldWords_enqueue w hq (by omega),
      List.append_assoc, List.singleton_append]

theorem enqueueAll_queueInv {ws : List Half} (hi : s.QueueInv) (hroom : s.qCount + ws.length ≤ s.cfg.qdepth) :
    (s.enqueueAll ws).QueueInv := by
  obtain ⟨hhead, -, hq⟩ := hi
  refine ⟨?_, ?_, enqueueAll_wf ws hq⟩
  · rwa [State.enqueueAll_qHead, State.enqueueAll_cfg]
  · rwa [State.enqueueAll_qCount, State.enqueueAll_cfg]

/-- A slot that none of the words fills, counted from the first free one, reads as before. -/
theorem enqueueAll_read_other {ws : List Half} (hq : s.q.wf = true) {a : Nat}
    (ha : ∀ k, k < ws.length → a ≠ (s.qHead + s.qCount + k) % s.cfg.qdepth) :
    (s.enqueueAll ws).q.read a = s.q.read a := by
  induction ws generalizing s with
  | nil => rfl
  | cons w ws ih =>
    obtain ⟨hwf, -, hother⟩ := enqueue_storage w hq
    rw [List.length_cons] at ha
    have htail : ∀ k, k < ws.length →
        a ≠ ((s.enqueue w).qHead + (s.enqueue w).qCount + k) % (s.enqueue w).cfg.qdepth := by
      intro k hk
      rw [State.enqueue_qHead, State.enqueue_qCount, State.enqueue_cfg,
        show s.qHead + (s.qCount + 1) + k = s.qHead + s.qCount + (k + 1) by omega]
      exact ha (k + 1) (by omega)
    rw [State.enqueueAll_cons, ih hwf htail]
    exact hother a (ha 0 (by omega))

/-- Settles O40: the frame, and past it the held words and the slots by induction on the words. -/
theorem enqueuedWordsJoinTheHeldWords : Obligations.EnqueuedWordsJoinTheHeldWords := by
  refine fun s ws => ⟨enqueueAll_frame s ws, fun hi hroom => ?_⟩
  have ⟨_, _, hq⟩ := hi
  exact ⟨heldWords_enqueueAll hq hroom, enqueueAll_queueInv hi hroom, fun _ => enqueueAll_read_other hq⟩

/-! The signals of enqueued words (R232). -/

theorem enqueue_trace (s : State) (w : Half) :
    (s.enqueue w).trace =
      s.trace ++ if wakeOnEnqueue s.cfg.wakePolicy (s.qCount == 0) then [.signal .inputReady s.inSig] else [] := by
  rw [State.enqueue_eq]

theorem enqueue_qCount_ne_zero (s : State) (w : Half) : (s.enqueue w).qCount ≠ 0 := by
  rw [State.enqueue_qCount]
  exact Nat.succ_ne_zero _

theorem enqueueAll_trace_of_everyWord (hp : s.cfg.wakePolicy = .everyWord) (ws : List Half) :
    (s.enqueueAll ws).trace = s.trace ++ List.replicate ws.length (.signal .inputReady s.inSig) := by
  induction ws generalizing s with
  | nil => exact (List.append_nil _).symm
  | cons w ws ih =>
    have hw : (s.enqueue w).trace = s.trace ++ [.signal .inputReady s.inSig] := by
      rw [enqueue_trace, hp]
      rfl
    rw [State.enqueueAll_cons, ih (by rwa [State.enqueue_cfg]), hw, State.enqueue_inSig, List.append_assoc,
      List.singleton_append, List.length_cons, List.replicate_succ]

/-- A queue that holds a word does not go from empty to non-empty again, whatever is enqueued. -/
theorem enqueueAll_trace_of_nonempty (hp : s.cfg.wakePolicy = .onTransition) (hc : s.qCount ≠ 0) (ws : List Half) :
    (s.enqueueAll ws).trace = s.trace := by
  induction ws generalizing s with
  | nil => rfl
  | cons w ws ih =>
    have hw : (s.enqueue w).trace = s.trace := by
      rw [enqueue_trace, hp, beq_eq_false_iff_ne.mpr hc]
      exact List.append_nil _
    rw [State.enqueueAll_cons, ih (by rwa [State.enqueue_cfg]) (enqueue_qCount_ne_zero s w), hw]

/-- The first word of an empty queue signals, and the words after it find the queue non-empty. -/
theorem enqueueAll_trace_of_empty (hp : s.cfg.wakePolicy = .onTransition) (hc : s.qCount = 0) (w : Half)
    (ws : List Half) : (s.enqueueAll (w :: ws)).trace = s.trace ++ [.signal .inputReady s.inSig] := by
  rw [State.enqueueAll_cons, enqueueAll_trace_of_nonempty (by rwa [State.enqueue_cfg]) (enqueue_qCount_ne_zero s w),
    enqueue_trace, hp, hc]
  rfl

/-- Settles O41: with ON_TRANSITION the first word alone can signal, with EVERY_WORD each one does. -/
theorem inputReadySignalsOnTransition : Obligations.InputReadySignalsOnTransition := by
  intro s ws
  cases hp : s.cfg.wakePolicy with
  | everyWord => exact enqueueAll_trace_of_everyWord hp ws
  | onTransition =>
    dsimp only
    split
    case isTrue h =>
      obtain ⟨w, vs, rfl⟩ := List.exists_cons_of_ne_nil h.2
      exact enqueueAll_trace_of_empty hp h.1 w vs
    case isFalse h =>
      rw [List.append_nil]
      by_cases hc : s.qCount = 0
      · obtain rfl : ws = [] := by_contra fun hne => h ⟨hc, hne⟩
        rfl
      · exact enqueueAll_trace_of_nonempty hp hc ws

/-! The peer's commands (R233, R234), in the phases that accept a class P command. -/

/-- RUN accepts every class but H, so such a command is its rule's result there (46_sequencer.md R312). -/
theorem exec_of_run (hs : s.seqPhase = .run) (i : Instr) (hc : i.cls ≠ .H) : exec i s = complete s (ruleOf i s) := by
  rw [exec_eq_issue, issue_of_accepts _ (by rw [hs]; exact bne_iff_ne.mpr hc)]

theorem setRes01_of_idle (hs : s.seqPhase = .idle) (v0 v1 : Word) :
    s.setRes01 v0 v1 = { s with host := { s.host with res0 := v0, res1 := v1 } } := by
  rw [State.setRes01, livePort_of_idle hs]
  rfl

theorem setRes01_of_run (hs : s.seqPhase = .run) (v0 v1 : Word) :
    s.setRes01 v0 v1 = { s with peer := { s.peer with res0 := v0, res1 := v1 } } := by
  rw [State.setRes01, livePort_of_run hs]
  rfl

theorem qPop_of_empty (hc : s.qCount = 0) : qPop s = s.setRes01 0 0 := if_pos hc

theorem dequeue_queueInv (hi : s.QueueInv) : s.dequeue.QueueInv := by
  obtain ⟨hhead, hcount, hq⟩ := hi
  exact ⟨Nat.mod_lt _ (by omega), (Nat.sub_le _ _).trans hcount, hq⟩

/-- Q_HEAD is in range, so the slot Dequeue reads is the oldest held word's, and the held words are that word and
then what Dequeue leaves (R235, R45). -/
theorem oldestWord_cons_heldWords_dequeue (hhead : s.qHead < s.cfg.qdepth) (hpos : 0 < s.qCount) :
    s.heldWords = s.oldestWord :: s.dequeue.heldWords := by
  rw [heldWords_dequeue hpos, Nat.mod_eq_of_lt hhead]
  rfl

theorem qCount_pos_of_heldWords {w : Half} {rest : List Half} (h : s.heldWords = w :: rest) : 0 < s.qCount := by
  rw [← heldWords_length, h]
  exact Nat.succ_pos _

theorem qPop_of_oldestWord {w : Half} (hpos : 0 < s.qCount) (hw : s.oldestWord = w) :
    qPop s = s.dequeue.setRes01 (BitVec.ofNat 32 w.toNat) 1 := by
  rw [qPop, if_neg (by omega), hw, BitVec.ofNat_toNat]

/-- Settles O42: Q_POP is its rule in both phases, and Dequeue takes the first of the held words. -/
theorem popReturnsTheOldestWord : Obligations.PopReturnsTheOldestWord := by
  refine ⟨fun s hc => ⟨fun hs => ?_, fun hs => ?_⟩, fun s w rest hi hheld => ?_⟩
  · rw [exec_of_idle hs, ← setRes01_of_idle hs, ← qPop_of_empty hc]
    rfl
  · rw [exec_of_run hs .qPop nofun, ← setRes01_of_run hs, ← qPop_of_empty hc]
    rfl
  · have ⟨hhead, _, _⟩ := hi
    have hpos := qCount_pos_of_heldWords hheld
    obtain ⟨hw, hrest⟩ := List.cons.inj ((oldestWord_cons_heldWords_dequeue hhead hpos).symm.trans hheld)
    have hpop := qPop_of_oldestWord hpos hw
    refine ⟨hrest, dequeue_queueInv hi, fun hs => ?_, fun hs => ?_⟩
    · rw [setRes01_of_idle (s := s.dequeue) hs] at hpop
      rw [exec_of_idle hs]
      exact congrArg Host.Outcome.next hpop
    · rw [setRes01_of_run (s := s.dequeue) hs] at hpop
      rw [exec_of_run hs .qPop nofun]
      exact congrArg Host.Outcome.next hpop

theorem arg0_of_idle (hs : s.seqPhase = .idle) : s.arg0 = s.host.arg0 := by
  rw [State.arg0, livePort_of_idle hs]
  rfl

theorem arg0_of_run (hs : s.seqPhase = .run) : s.arg0 = s.peer.arg0 := by
  rw [State.arg0, livePort_of_run hs]
  rfl

/-- Settles O43: in both phases the command's rule is accepted, and ARG0 is the live port's. -/
theorem setInputSignalWritesInSig : Obligations.SetInputSignalWritesInSig := by
  refine fun s => ⟨fun hs => ?_, fun hs => ?_⟩
  · rw [exec_of_idle hs, ← arg0_of_idle hs]
    rfl
  · rw [exec_of_run hs .setInputSignal nofun, ← arg0_of_run hs]
    rfl

end Sys2Proof.Machine
end

section
/-! The dirty-rect family (44_dirty_rect.md): REPORT_DAMAGE is its checks and then one write of the tracked rectangle,
which fits its registers, and DR_TAKE answers that rectangle at the host port. -/

namespace Sys2Proof.Machine

variable {s : State} {r : Rect}

/-! REPORT_DAMAGE (R252, R253). -/

/-- What is tracked after report `r` is accepted: `r` wholesale when nothing was tracked, else the union (R252). -/
def damageAfter (s : State) (r : Rect) : Rect := if s.drW = 0 ∨ s.drH = 0 then r else s.dirty.union r

/-- A rectangle's four numbers, in the order of the DR registers. -/
def Rect.numbers (r : Rect) : Nat × Nat × Nat × Nat := (r.x, r.y, r.w, r.h)

theorem reportDamage_of_null (h : s.display.handle = 0) : reportDamage r s = .error .noBitmap := if_pos h

theorem reportDamage_of_outside (h : s.display.handle ≠ 0)
    (hout : s.display.w.toNat < r.x + r.w ∨ s.display.h.toNat < r.y + r.h) :
    reportDamage r s = .error .damageBounds := by
  rw [reportDamage, if_neg h, if_pos hout]

theorem reportDamage_of_inside (h : s.display.handle ≠ 0)
    (hin : ¬ (s.display.w.toNat < r.x + r.w ∨ s.display.h.toNat < r.y + r.h)) :
    reportDamage r s = .ok (s.setDirty (damageAfter s r)) := by
  simp only [reportDamage, if_neg h, if_neg hin, damageAfter, dirty_isEmpty_iff, apply_ite s.setDirty,
    apply_ite Except.ok]

/-- A union's edges are the further ones of its parts, so it fits 16 bits when both of them do (R253). -/
theorem damageAfter_fits (hi : s.DirtyInv) (hx : r.x + r.w ≤ 65535) (hy : r.y + r.h ≤ 65535) :
    (damageAfter s r).x + (damageAfter s r).w ≤ 65535 ∧ (damageAfter s r).y + (damageAfter s r).h ≤ 65535 := by
  obtain ⟨hdx, hdy⟩ := hi
  unfold damageAfter
  split
  · exact ⟨hx, hy⟩
  · rw [union_right, union_bottom]
    exact ⟨max_le hdx hx, max_le hdy hy⟩

/-- A rectangle whose edges fit 16 bits is tracked without loss. -/
theorem dirty_setDirty (hx : r.x + r.w ≤ 65535) (hy : r.y + r.h ≤ 65535) : (s.setDirty r).dirty = r := by
  simp (disch := omega) only [State.dirty, State.setDirty, BitVec.toNat_ofNat, Nat.mod_eq_of_lt]

/-- A report inside the bitmap fits 16 bits, as DISP_W and DISP_H do, so what is then tracked is kept whole. -/
theorem dirty_of_report_inside (hi : s.DirtyInv) (hx : r.x + r.w ≤ s.display.w.toNat)
    (hy : r.y + r.h ≤ s.display.h.toNat) : (s.setDirty (damageAfter s r)).dirty = damageAfter s r := by
  have hw := s.display.w.isLt
  have hh := s.display.h.isLt
  obtain ⟨hright, hbottom⟩ := damageAfter_fits (r := r) hi (by omega) (by omega)
  exact dirty_setDirty hright hbottom

/-- IDLE and RUN both accept every class but H (46_sequencer.md R312). -/
theorem exec_of_idle_or_run (hs : s.seqPhase = .idle ∨ s.seqPhase = .run) (i : Instr) (hc : i.cls ≠ .H) :
    exec i s = complete s (ruleOf i s) :=
  hs.elim (fun h => exec_of_idle h i) (fun h => exec_of_run h i hc)

theorem exec_reportDamage (hs : s.seqPhase = .idle ∨ s.seqPhase = .run) :
    exec .reportDamage s =
      complete s (reportDamage ⟨s.arg0.toNat, s.arg1.toNat, s.arg2.toNat, s.arg3.toNat⟩ s) :=
  exec_of_idle_or_run hs .reportDamage nofun

/-- Settles O44: the bitmap, then the bounds, and past both the rectangle tracked is written whole. -/
theorem damageIsCheckedThenUnited : Obligations.DamageIsCheckedThenUnited := by
  intro s hi hs x y w h x' y'
  rw [exec_reportDamage hs]
  by_cases hnull : s.display.handle = 0
  · rw [reportDamage_of_null hnull]
    exact ⟨_, rfl, fun _ => rfl, fun hne => absurd hnull hne, fun hne => absurd hnull hne⟩
  by_cases hout : s.display.w.toNat < x + w ∨ s.display.h.toNat < y + h
  · rw [reportDamage_of_outside hnull hout]
    exact ⟨_, rfl, fun h0 => absurd h0 hnull, fun _ _ => rfl, fun _ hx hy => by omega⟩
  rw [reportDamage_of_inside hnull hout]
  refine ⟨_, rfl, fun h0 => absurd h0 hnull, fun _ h1 => absurd h1 hout, fun _ hx hy => ⟨rfl, ?_⟩⟩
  have htracked := dirty_of_report_inside (r := ⟨x, y, w, h⟩) hi hx hy
  exact (congrArg Rect.numbers htracked).trans (apply_ite Rect.numbers _ _ _)

/-! DR_TAKE (R254). -/

theorem setRes_of_idle (hs : s.seqPhase = .idle) (v0 v1 v2 v3 : Word) :
    s.setRes v0 v1 v2 v3 =
      { s with host := { s.host with res0 := v0, res1 := v1, res2 := v2, res3 := v3 } } := by
  rw [State.setRes, livePort_of_idle hs]
  rfl

/-- Settles O45: the rectangle is cleared, and its four numbers as words are written at the host port. -/
theorem takeReturnsAndClearsTheRect : Obligations.TakeReturnsAndClearsTheRect := by
  intro s hs
  have hcleared : s.clearDirty.seqPhase = .idle := hs
  rw [exec_of_idle hs]
  simp only [BitVec.ofNat_toNat]
  exact congrArg Host.Outcome.next (setRes_of_idle hcleared _ _ _ _)

end Sys2Proof.Machine
end

section
/-! The display-blitter family (45_blitter.md): the model's loops are cut to the bitmap, and what they append is what
the literal loops of R274 and R278 append, which make each skip (R275) one by one. -/

namespace Sys2Proof.Machine

open Sys2Proof.Claims

variable {s : State}

/-! CALC_OFFSETS (R272). -/

/-- The 32-bit difference is the natural one modulo 2 ^ 32. -/
theorem centerOffset_eq_centred (screen bitmap : Half) :
    centerOffset screen bitmap = BitVec.ofNat 16 (centred screen.toNat bitmap.toNat) := by
  have hdiff : (screen.setWidth 32 - bitmap.setWidth 32 : Word).toNat =
      (2 ^ 32 + screen.toNat - bitmap.toNat) % 2 ^ 32 := by
    simp only [BitVec.toNat_sub, BitVec.toNat_setWidth]
    omega
  simp only [centerOffset, centred, hdiff, apply_ite (BitVec.ofNat 16)]
  rfl

theorem calcOffsets_eq_withOffsets (s : State) : calcOffsets s = withOffsets s := by
  unfold calcOffsets withOffsets
  split
  · rfl
  · simp only [centerOffset_eq_centred]

/-- Settles O46: the command is its rule, and each offset is computed on naturals. -/
theorem offsetsCentreOrClampToZero : Obligations.OffsetsCentreOrClampToZero := by
  intro s hs
  rw [exec_of_idle hs, ← calcOffsets_eq_withOffsets]
  rfl

/-! BLIT_RECT (R273 to R276). -/

/-- A loop that skips the indices from `limit` on lists the indices below it. -/
theorem flatMap_skip_eq_flatMap_filter {β : Type} (l : List Nat) (limit : Nat) (f : Nat → List β) :
    (l.flatMap fun a => if limit ≤ a then [] else f a) = (l.filter (· < limit)).flatMap f := by
  induction l with
  | nil => rfl
  | cons a l ih =>
    by_cases h : limit ≤ a
    · simp [ih, h, Nat.not_lt.mpr h]
    · simp [ih, h, Nat.lt_of_not_le h]

/-- The model's cut of a loop's indices to `limit` (log 15) leaves out only turns that append nothing. -/
theorem flatMap_clampedRange {β : Type} (lo hi limit : Nat) (f : Nat → List β) :
    (clampedRange lo hi limit).flatMap f =
      (List.range' lo (hi - lo)).flatMap fun a => if limit ≤ a then [] else f a := by
  rw [flatMap_skip_eq_flatMap_filter]
  exact congrArg (List.flatMap f) (List.Ico.filter_lt lo hi limit).symm

/-- Counting `k` up to `n` is counting `p = n - 1 - k` down to 0. -/
theorem flatMap_range_eq_flatMap_reverse {β : Type} (n : Nat) (f : Nat → List β) :
    (List.range n).flatMap f = (List.range n).reverse.flatMap fun p => f (n - 1 - p) := by
  rw [List.range_eq_range', List.reverse_range', List.flatMap_map, ← List.range_eq_range']
  refine List.flatMap_congr fun k hk => congrArg f ?_
  have := List.mem_range.mp hk
  omega

/-- One word's turn, its bits counted down from 15 as R274 does. -/
theorem blitWord_eq (s : State) (row wc : Nat) :
    s.blitWord row wc =
      .fetch (row * s.wpr + wc) s.display.handle :: (List.range 16).reverse.flatMap fun p =>
        s.pixelAt (16 * wc + (15 - p)) row
          (if (s.bitmapWord (row * s.wpr + wc)).getLsbD p then s.fgColor else s.bgColor) := by
  rw [State.blitWord, flatMap_range_eq_flatMap_reverse]
  refine congrArg (List.cons _) (List.flatMap_congr fun p hp => ?_)
  have hp : p < 16 := List.mem_range.mp (List.mem_reverse.mp hp)
  have hbit : 15 - (16 - 1 - p) = p := by omega
  simp only [hbit]

theorem blitOutputs_eq_blitLoop (s : State) (r : Rect) : s.blitOutputs r = blitLoop s r.x r.y r.w r.h := by
  simp only [State.blitOutputs, flatMap_clampedRange, blitWord_eq, Nat.add_sub_cancel_left]
  rfl

theorem exec_blitRect (hs : s.seqPhase = .idle) :
    exec .blitRect s = .next (blitRect ⟨s.arg0.toNat, s.arg1.toNat, s.arg2.toNat, s.arg3.toNat⟩ s) :=
  exec_of_idle hs .blitRect

/-- Settles O47: the rows and word columns left out by the model's loops are the skipped ones. -/
theorem blitIsTheLiteralLoop : Obligations.BlitIsTheLiteralLoop := by
  intro s hs
  rw [exec_blitRect hs, blitRect, blitOutputs_eq_blitLoop]
  rfl

/-! CURSOR_UPDATE (R277, R278). -/

/-- The nested skips of a pixel off the bitmap's columns or the screen, as one condition (R275). -/
theorem pixelAt_eq (s : State) (col row : Nat) (colour : Word) :
    s.pixelAt col row colour =
      if col < s.display.w.toNat
          ∧ col + s.offX.toNat < s.screen.w.toNat ∧ row + s.offY.toNat < s.screen.h.toNat then
        [.pixel (col + s.offX.toNat) (row + s.offY.toNat) colour]
      else [] := by
  by_cases hcol : s.display.w.toNat ≤ col
  · rw [State.pixelAt, if_pos hcol, if_neg (by omega)]
  by_cases hoff : s.screen.w.toNat ≤ col + s.offX.toNat ∨ s.screen.h.toNat ≤ row + s.offY.toNat
  · rw [State.pixelAt, if_neg hcol, if_pos hoff, if_neg (by omega)]
  · rw [State.pixelAt, if_neg hcol, if_neg hoff, if_pos (by omega)]

/-- One glyph bit's turn in Stamp: the bit, its row and its pixel's skips are R278's one condition. -/
theorem stampBit_eq (s : State) (bit : Bool) (col row : Nat) :
    (if bit && decide (row < s.display.h.toNat) then s.pixelAt col row s.cursorColor else []) =
      if bit = true ∧ col < s.display.w.toNat ∧ row < s.display.h.toNat
          ∧ col + s.offX.toNat < s.screen.w.toNat ∧ row + s.offY.toNat < s.screen.h.toNat then
        [.pixel (col + s.offX.toNat) (row + s.offY.toNat) s.cursorColor]
      else [] := by
  rw [pixelAt_eq, ← ite_and]
  simp only [Bool.and_eq_true, decide_eq_true_eq, and_assoc, and_left_comm]

theorem stampOutputs_eq_stampLoop (s : State) (cx cy : Nat) : s.stampOutputs cx cy = stampLoop s cx cy := by
  simp only [State.stampOutputs, stampBit_eq]
  rfl

theorem cursorOutputs_eq_cursorLoop (s : State) : s.cursorOutputs = cursorLoop s := by
  rw [State.cursorOutputs, blitOutputs_eq_blitLoop, stampOutputs_eq_stampLoop]
  rfl

theorem cursorUpdate_eq (s : State) :
    cursorUpdate s =
      if s.display.handle = 0 then s
      else { s with trace := s.trace ++ cursorLoop s, curPrevX := s.curNewX, curPrevY := s.curNewY } := by
  rw [cursorUpdate, cursorOutputs_eq_cursorLoop]
  rfl

/-- Settles O48: the command is its rule, and what it draws is the cursor's literal loops. -/
theorem cursorUpdateRestoresThenStamps : Obligations.CursorUpdateRestoresThenStamps := by
  intro s hs
  rw [exec_of_idle hs, ← cursorUpdate_eq]
  rfl

/-! RENDER (R279, R280). -/

theorem blitLoop_of_null (hnull : s.display.handle = 0) (x y w h : Nat) : blitLoop s x y w h = [] := if_pos hnull

/-- With no bitmap a copy changes nothing. -/
theorem blitRect_of_null (h : s.display.handle = 0) (r : Rect) : blitRect r s = s := by
  rw [blitRect, blitOutputs_eq_blitLoop, blitLoop_of_null h, State.emitOutputs, List.append_nil]

/-- The render pass: no damage, then no bitmap, then the copy before the cursor's update. The loops read neither the
tracked rectangle nor the trace, so clearing the one and appending to the other before they run changes nothing. -/
theorem renderPass_eq_rendered (s : State) : renderPass s = rendered s := by
  by_cases hempty : s.drW = 0 ∨ s.drH = 0
  · rw [renderPass, if_pos ((dirty_isEmpty_iff s).mpr hempty), rendered, if_pos hempty]
  rw [renderPass, if_neg (mt (dirty_isEmpty_iff s).mp hempty), rendered, if_neg hempty, cursorUpdate_eq]
  by_cases hnull : s.display.handle = 0
  · rw [if_pos hnull]
    exact (if_pos hnull).trans (blitRect_of_null (s := s.clearDirty) hnull s.dirty)
  · rw [if_neg hnull, blitRect, blitOutputs_eq_blitLoop]
    exact if_neg hnull

/-- Settles O49: the command is its rule, the render pass. -/
theorem renderCopiesDamageThenCursor : Obligations.RenderCopiesDamageThenCursor := by
  intro s hs
  rw [exec_of_idle hs, ← renderPass_eq_rendered]
  rfl

end Sys2Proof.Machine
end

section
/-! The sequencer family (46_sequencer.md), part 1: what the live port accepts in each phase, and the commands of the
sequencer and of the scheduled wake. -/

namespace Sys2Proof.Machine

open Sys2Proof.Claims

variable {s : State}

/-! The live port, and what each phase does with a command (R312). -/

/-- In the phases without internal steps, the port that the phase makes live. -/
theorem livePort_of_phase {n : PortName}
    (h : (n = .peer ∧ s.seqPhase = .run)
      ∨ (n = .host ∧ (s.seqPhase = .idle ∨ s.seqPhase = .terminated ∨ s.seqPhase = .faulted))) :
    s.seqPhase.internal = false ∧ s.livePort = n := by
  rcases h with ⟨rfl, hp⟩ | ⟨rfl, hp | hp⟩
  · exact ⟨by rw [hp]; rfl, livePort_of_run hp⟩
  · exact ⟨by rw [hp]; rfl, livePort_of_idle hp⟩
  · exact ⟨by rcases hp with hp | hp <;> rw [hp] <;> rfl, livePort_of_halted hp⟩

theorem blockStep_of_no_command {n : PortName} (hp : s.seqPhase.internal = false) (hn : s.livePort = n)
    (hw : (s.port n).waiting = false) : blockStep s = .next s := by
  rw [blockStep_eq_acceptAt hp, hn, acceptAt, if_neg (by rw [hw]; exact Bool.false_ne_true)]

/-- Settles O6: the block turns to the live port, with no move scheduled and with its own move scheduled first. -/
theorem stepRunsTheCommandAtTheLivePort : Obligations.StepRunsTheCommandAtTheLivePort := by
  intro s n i rest hlive
  obtain ⟨hp, hn⟩ := livePort_of_phase hlive
  refine ⟨fun hw hd => ⟨fun hempty => ?_, fun hblock => ?_⟩, fun hw hempty => ?_⟩
  · rw [step_of_no_move hempty, blockStep_of_decodes hp hn hw hd]
  · rw [step_of_block_move hblock]
    refine blockStep_of_decodes hp hn ?_ ?_
    · cases n <;> exact hw
    · cases n <;> exact hd
  · rw [step_of_no_move hempty, blockStep_of_no_command hp hn hw]

/-- A command that the phase lets wait, or ignores, changes nothing. -/
theorem issue_of_rejects {c : CmdClass} (hr : s.seqPhase.accepts c = false) (hp : s.seqPhase ≠ .run)
    (rule : State → Result) : issue c s rule = .next s := by
  obtain ⟨t, ht⟩ := issue_next c s rule
  rcases issue_cases ht with ⟨ha, _⟩ | ⟨_, ha, _⟩ | ⟨hrun, _⟩ | ⟨_, _, rfl⟩
  · exact absurd (ha.symm.trans hr) nofun
  · exact absurd (ha.symm.trans hr) nofun
  · exact absurd hrun hp
  · exact ht

theorem exec_of_internal (hp : s.seqPhase.internal = true) (i : Instr) : exec i s = .next s := by
  rw [exec_eq_issue]
  refine issue_of_rejects (Bool.eq_false_iff.mpr fun ha => ?_) (fun hrun => ?_) _
  · exact absurd (hp.symm.trans (internal_eq_false_of_accepts ha)) nofun
  · rw [hrun] at hp
    cases hp

/-- While halted every command but those of class A is ignored (60_exceptions.md R368). -/
theorem exec_of_halted (hp : s.seqPhase = .terminated ∨ s.seqPhase = .faulted) (i : Instr) (hc : i.cls ≠ .A) :
    exec i s = .next s := by
  rw [exec_eq_issue]
  rcases hp with hp | hp <;> exact issue_of_rejects (by rw [hp]; exact beq_false_of_ne hc) (by rw [hp]; exact nofun) _

/-- Settles O9: RUN accepts the classes P and A alone. -/
theorem classHFaultsInRun : Obligations.ClassHFaultsInRun := by
  intro i s hc hp
  rw [exec_eq_issue, hc, issue_classH_of_run hp]

/-! SET_WAKE and CHECK_WAKE (R321, R322). -/

/-- Settles O50: both phases accept class P, and the command is its rule. -/
theorem setWakeReplacesOrCancels : Obligations.SetWakeReplacesOrCancels := by
  intro s hs
  rw [exec_of_idle_or_run hs .setWake nofun]
  rfl

/-- The model's unsigned comparison of words is that of R322 on naturals. -/
theorem checkWake_eq_wakeChecked (s : State) : checkWake s = wakeChecked s := by
  unfold checkWake wakeChecked
  cases s.swPending <;> rfl

/-- Settles O51: the command is its rule. -/
theorem checkWakeDeliversOnce : Obligations.CheckWakeDeliversOnce := by
  intro s hs
  rw [exec_of_idle hs, ← checkWake_eq_wakeChecked]
  rfl

/-! FRAME and TERMINATE (R313, R323). -/

theorem terminate_of_run (hs : s.seqPhase = .run) :
    terminate s = { s with termFlag := true, seqPhase := .termchk } := by
  rw [terminate, if_pos hs]

theorem terminate_of_idle (hs : s.seqPhase = .idle) :
    terminate s = { s with termFlag := true, seqPhase := .terminated } := by
  rw [terminate, if_neg (by rw [hs]; exact nofun)]

theorem exec_frame_of_idle (hs : s.seqPhase = .idle) : exec .frame s = .next { s with seqPhase := .offsets } :=
  exec_of_idle hs .frame

/-- Settles O52: what each phase that accepts or ignores the commands does with them. -/
theorem frameAndTerminateMoveThePhase : Obligations.FrameAndTerminateMoveThePhase := by
  refine fun s => ⟨exec_frame_of_idle, fun hs => ?_, fun hs => ?_, fun hs => ?_⟩
  · rw [exec_of_run hs .terminate nofun, ← terminate_of_run hs]
    rfl
  · rw [exec_of_idle hs, ← terminate_of_idle hs]
    rfl
  · exact ⟨exec_of_halted hs .frame nofun, exec_of_halted hs .terminate nofun⟩

end Sys2Proof.Machine
end

section
/-! The sequencer family (46_sequencer.md), part 2: the internal step of each phase, and that it neither reads nor
writes the ports. -/

namespace Sys2Proof.Machine

open Sys2Proof.Claims

variable {s t : State}

/-! The internal steps of OFFSETS, WAKE, TERMCHK, RENDER and DELAY (R314, R316, R318 to R320). -/

theorem blockStep_of_offsets (hp : s.seqPhase = .offsets) :
    blockStep s = .next { withOffsets s with seqPhase := .poll } := by
  rw [blockStep, hp, ← calcOffsets_eq_withOffsets]
  rfl

theorem blockStep_of_poll (hp : s.seqPhase = .poll) : blockStep s = .next (pollStep s) := by
  rw [blockStep, hp]

theorem blockStep_of_wake (hp : s.seqPhase = .wake) :
    blockStep s = .next { wakeChecked s with
      trace := (wakeChecked s).trace ++ [.runRequest s.cyclesPerFrame], seqPhase := .run } := by
  rw [blockStep, hp, ← checkWake_eq_wakeChecked]
  rfl

theorem blockStep_of_termchk (hp : s.seqPhase = .termchk) :
    blockStep s = .next { s with seqPhase := if s.termFlag then .terminated else .render } := by
  rw [blockStep, hp]
  rfl

/-- The render pass writes neither the delay's configuration nor the clock. -/
theorem rendered_delayInputs (s : State) :
    (rendered s).vsync = s.vsync ∧ (rendered s).frameDelay = s.frameDelay ∧ (rendered s).clock = s.clock := by
  unfold rendered
  split_ifs <;> exact ⟨rfl, rfl, rfl⟩

theorem blockStep_of_render (hp : s.seqPhase = .render) :
    blockStep s = .next (
      if s.vsync ∨ s.frameDelay = 0 then { rendered s with seqPhase := .idle }
      else { rendered s with
        delayStart := s.clock.sampleTick.1, clock := s.clock.sampleTick.2, seqPhase := .delay }) := by
  obtain ⟨hvsync, hdelay, hclock⟩ := rendered_delayInputs s
  rw [blockStep, hp]
  simp only [renderStep, renderPass_eq_rendered, hvsync, hdelay, hclock, Bool.or_eq_true, beq_iff_eq]

/-- The elapsed time is a difference of 32-bit words, which wraps around. -/
theorem delayStep_eq (s : State) :
    delayStep s =
      if s.frameDelay.toNat ≤ (2 ^ 32 + s.clock.sampleTick.1.toNat - s.delayStart.toNat) % 2 ^ 32 then
        { s with clock := s.clock.sampleTick.2, seqPhase := .idle }
      else { s with clock := s.clock.sampleTick.2 } := by
  rw [delayStep, ← word_sub_toNat]
  rfl

theorem blockStep_of_delay (hp : s.seqPhase = .delay) :
    blockStep s = .next (
      if s.frameDelay.toNat ≤ (2 ^ 32 + s.clock.sampleTick.1.toNat - s.delayStart.toNat) % 2 ^ 32 then
        { s with clock := s.clock.sampleTick.2, seqPhase := .idle }
      else { s with clock := s.clock.sampleTick.2 }) := by
  rw [← delayStep_eq, blockStep, hp]

/-- RunDone can come in RUN when no peer command waits (log 19). -/
theorem step_of_runDone {rest : List Move} (hm : s.schedule = .runDone :: rest) (hp : s.seqPhase = .run)
    (hw : s.peer.waiting = false) : step s = .next { s with seqPhase := .termchk, schedule := rest } := by
  have hready : Move.ready s .runDone = true := by simp [Move.ready, hp, hw]
  rw [step, advance, hm]
  exact if_pos hready

/-- Settles O53, phase by phase. -/
theorem internalStepsRunTheFrameLoop : Obligations.InternalStepsRunTheFrameLoop := by
  refine fun s => ⟨fun hempty => ?_, fun _ => step_of_runDone⟩
  rw [step_of_no_move hempty]
  exact ⟨blockStep_of_offsets, blockStep_of_wake, blockStep_of_termchk, blockStep_of_render, blockStep_of_delay⟩

/-! Phase POLL (R315): its three ends, and its first report. -/

theorem pollStep_of_keys_fault {c : FaultCode} (hk : keySubSteps s.kbd { s with kbd := [] } = (t, some c)) :
    pollStep s = t.takeFault c := by
  rw [pollStep, hk]

theorem pollStep_of_mouse_fault {c : FaultCode} (hk : keySubSteps s.kbd { s with kbd := [] } = (t, none))
    (hm : mousePoll t.mouse.x t.mouse.y t.mouse.btn t = .error c) : pollStep s = t.takeFault c := by
  rw [pollStep, hk]
  simp only [hm]

theorem pollStep_of_mouse_ok {u : State} (hk : keySubSteps s.kbd { s with kbd := [] } = (t, none))
    (hm : mousePoll t.mouse.x t.mouse.y t.mouse.btn t = .ok u) : pollStep s = { u with seqPhase := .wake } := by
  rw [pollStep, hk]
  simp only [hm]

/-! A change of the context passes through the rules that neither read nor write it. -/

/-- The context changed by `f`. -/
def State.mapContext (f : Context → Context) (s : State) : State := s.inContext (f s.context)

variable (f : Context → Context)

/-- A state with the context of `s`, moved to the changed context of `s`. -/
theorem inContext_of_kept (h : t.context = s.context) : t.inContext (f s.context) = t.mapContext f := by
  rw [State.mapContext, h]

theorem map_inContext_of_kept {r : Result} (h : ∀ t, r = .ok t → t.context = s.context) :
    Result.inContext (f s.context) r = r.map (·.mapContext f) := by
  cases r with
  | ok t => exact congrArg Except.ok (inContext_of_kept f (h t rfl))
  | error c => rfl

theorem calcOffsets_mapContext (s : State) : calcOffsets (s.mapContext f) = (calcOffsets s).mapContext f :=
  (calcOffsets_inContext s _).trans (inContext_of_kept f (calcOffsets_context s))

theorem checkWake_mapContext (s : State) : checkWake (s.mapContext f) = (checkWake s).mapContext f :=
  (checkWake_inContext s _).trans (inContext_of_kept f (checkWake_context s))

theorem renderPass_mapContext (s : State) : renderPass (s.mapContext f) = (renderPass s).mapContext f :=
  (renderPass_inContext s _).trans (inContext_of_kept f (renderPass_context s))

theorem keySubStep_mapContext (k : KeyReport) (s : State) :
    keySubStep k (s.mapContext f) = (keySubStep k s).map (·.mapContext f) :=
  (keySubStep_inContext k s _).trans (map_inContext_of_kept f fun _ => keySubStep_context)

theorem mousePoll_mapContext (x y m : Word) (s : State) :
    mousePoll x y m (s.mapContext f) = (mousePoll x y m s).map (·.mapContext f) :=
  (mousePoll_inContext x y m s _).trans (map_inContext_of_kept f fun _ => mousePoll_context)

theorem keySubSteps_mapContext (ks : List KeyReport) (s : State) :
    keySubSteps ks (s.mapContext f) = ((keySubSteps ks s).1.mapContext f, (keySubSteps ks s).2) := by
  rw [State.mapContext, keySubSteps_inContext, State.mapContext, keySubSteps_context]

/-! The ports during an internal step (R312). -/

/-- The context with the registers of both ports replaced. -/
def replacePorts (host peer : Port) (c : Context) : Context := { c with host := host, peer := peer }

/-- The state with the registers of both ports replaced. -/
abbrev State.withPorts (s : State) (host peer : Port) : State := s.mapContext (replacePorts host peer)

theorem offsetsStep_withPorts (s : State) (host peer : Port) :
    offsetsStep (s.withPorts host peer) = (offsetsStep s).withPorts host peer := by
  rw [offsetsStep, calcOffsets_mapContext]
  rfl

theorem pollStep_withPorts (s : State) (host peer : Port) :
    pollStep (s.withPorts host peer) = (pollStep s).withPorts host peer := by
  have hkeys := keySubSteps_mapContext (replacePorts host peer) s.kbd { s with kbd := [] }
  rcases hk : keySubSteps s.kbd { s with kbd := [] } with ⟨t, _ | c⟩ <;> rw [hk] at hkeys
  case some =>
    rw [pollStep_of_keys_fault hk, pollStep_of_keys_fault (s := s.withPorts host peer) hkeys]
    rfl
  case none =>
    have hmouse := mousePoll_mapContext (replacePorts host peer) t.mouse.x t.mouse.y t.mouse.btn t
    cases hm : mousePoll t.mouse.x t.mouse.y t.mouse.btn t <;> rw [hm] at hmouse
    case ok u =>
      rw [pollStep_of_mouse_ok hk hm, pollStep_of_mouse_ok (s := s.withPorts host peer) hkeys hmouse]
      rfl
    case error c =>
      rw [pollStep_of_mouse_fault hk hm, pollStep_of_mouse_fault (s := s.withPorts host peer) hkeys hmouse]
      rfl

theorem wakeStep_withPorts (s : State) (host peer : Port) :
    wakeStep (s.withPorts host peer) = (wakeStep s).withPorts host peer := by
  rw [wakeStep, checkWake_mapContext]
  rfl

theorem renderStep_withPorts (s : State) (host peer : Port) :
    renderStep (s.withPorts host peer) = (renderStep s).withPorts host peer := by
  rw [renderStep, renderPass_mapContext]
  show (if (renderPass s).vsync || (renderPass s).frameDelay == 0 then _ else _) = _
  rw [renderStep]
  split <;> rfl

theorem delayStep_withPorts (s : State) (host peer : Port) :
    delayStep (s.withPorts host peer) = (delayStep s).withPorts host peer := by
  show (if s.frameDelay ≤ s.clock.sampleTick.1 - s.delayStart then _ else _) = _
  rw [delayStep]
  split <;> rfl

/-- What an internal step does is the same whatever the ports hold. -/
theorem blockStep_withPorts (hp : s.seqPhase.internal = true) (h : blockStep s = .next t) (host peer : Port) :
    blockStep (s.withPorts host peer) = .next (t.withPorts host peer) := by
  have hsame : (s.withPorts host peer).seqPhase = s.seqPhase := rfl
  rw [blockStep] at h ⊢
  rw [hsame]
  cases hphase : s.seqPhase <;> rw [hphase] at h hp
  case idle | run | terminated | faulted => cases hp
  all_goals cases h
  case offsets => exact congrArg _ (offsetsStep_withPorts s host peer)
  case poll => exact congrArg _ (pollStep_withPorts s host peer)
  case wake => exact congrArg _ (wakeStep_withPorts s host peer)
  case termchk => rfl
  case render => exact congrArg _ (renderStep_withPorts s host peer)
  case delay => exact congrArg _ (delayStep_withPorts s host peer)

/-- Settles O8: the waiting flags are registers of the ports. -/
theorem commandsWaitDuringInternalPhases : Obligations.CommandsWaitDuringInternalPhases := by
  intro s i h p hempty hphase
  have hp : s.seqPhase.internal = true := by
    simp only [List.mem_cons, List.not_mem_nil, or_false] at hphase
    rcases hphase with hp | hp | hp | hp | hp | hp <;> rw [hp] <;> rfl
  refine ⟨exec_of_internal hp i, fun t ht => ?_⟩
  rw [step_of_no_move hempty] at ht
  obtain ⟨hhost, hpeer⟩ := blockStep_ports hp ht
  rw [hhost, hpeer, step_of_no_move (by exact hempty)]
  exact blockStep_withPorts hp ht _ _

end Sys2Proof.Machine
end

section
/-! The sequencer family (46_sequencer.md), part 3: in phase POLL each report and the mouse sample have the effect of
their commands. -/

namespace Sys2Proof.Machine

open Sys2Proof.Claims

variable {s t u : State} {k : KeyReport} {ks : List KeyReport} {c : FaultCode}

/-! The keyboard reports (R315). -/

/-- A key command with a report's operands is that report's sub-step, run from the command's state. -/
theorem exec_asCommand (k : KeyReport) (s : State) :
    exec (if s.cfg.kbdMode = .raw then .keyRaw else .keyCooked) (asCommand k s)
      = complete (asCommand k s) (keySubStep k (asCommand k s)) := by
  have hidle : (asCommand k s).seqPhase = .idle := rfl
  rw [exec_of_idle hidle, keySubStep]
  show _ = complete _ (match s.cfg.kbdMode with | .raw => _ | .cooked => _)
  cases s.cfg.kbdMode <;> rfl

/-- The context in which a report's command runs. -/
def commandContext (k : KeyReport) (c : Context) : Context :=
  { c with seqPhase := .idle, host := { c.host with arg0 := k.a, arg1 := k.b } }

theorem asCommand_eq_mapContext (k : KeyReport) (s : State) : asCommand k s = s.mapContext (commandContext k) := rfl

/-- A sub-step neither reads nor writes the reports at the port. -/
theorem keySubStep_of_reports_taken (k : KeyReport) (s : State) :
    keySubStep k { s with kbd := [] } = (keySubStep k s).map fun t => { t with kbd := [] } :=
  keySubStep_mapContext (fun c => { c with kbd := [] }) k s

theorem keySubSteps_cons_of_ok (h : keySubStep k s = .ok t) : keySubSteps (k :: ks) s = keySubSteps ks t := by
  rw [keySubSteps, h]

theorem keySubSteps_cons_of_error (h : keySubStep k s = .error c) : keySubSteps (k :: ks) s = (s, some c) := by
  rw [keySubSteps, h]

theorem step_of_poll (hempty : s.schedule = []) (hp : s.seqPhase = .poll) : step s = .next (pollStep s) := by
  rw [step_of_no_move hempty, blockStep_of_poll hp]

/-- A report that does not fault leaves the rest of the phase to run from its state. -/
theorem pollStep_cons_of_ok (hk : s.kbd = k :: ks) (h : keySubStep k s = .ok u) :
    pollStep s = pollStep { u with kbd := ks } := by
  have htaken : keySubStep k { s with kbd := [] } = .ok { u with kbd := [] } := by
    rw [keySubStep_of_reports_taken, h]
    rfl
  rw [pollStep, hk, keySubSteps_cons_of_ok htaken]
  rfl

theorem pollStep_cons_of_error (hk : s.kbd = k :: ks) (h : keySubStep k s = .error c) :
    pollStep s = { s with kbd := [] }.takeFault c := by
  have htaken : keySubStep k { s with kbd := [] } = .error c := by
    rw [keySubStep_of_reports_taken, h]
    rfl
  exact pollStep_of_keys_fault (by rw [hk, keySubSteps_cons_of_error htaken])

/-- A fault keeps an earlier fault's code, so only the code before it matters. -/
theorem faultedWith_faultCode_takeFault (h : t.faultCode = s.faultCode) (c : FaultCode) :
    faultedWith s (t.takeFault c).faultCode = s.takeFault c := by
  unfold faultedWith State.takeFault
  rw [h]
  split_ifs <;> rfl

/-- Settles O54: the sub-step neither reads nor writes the phase and the ports. -/
theorem pollRunsEachReportAsItsCommand : Obligations.PollRunsEachReportAsItsCommand := by
  intro s t k ks hempty hphase _ hk hexec
  rw [exec_asCommand, asCommand_eq_mapContext, keySubStep_mapContext] at hexec
  cases hsub : keySubStep k s with
  | ok u =>
    have hkept := keySubStep_context hsub
    rw [hsub] at hexec
    cases hexec
    refine ⟨fun hfault => absurd hfault nofun, fun _ => ?_⟩
    have hpoll : u.seqPhase = .poll := (seqPhase_of_context hkept).trans hphase
    have hrest : { u.mapContext (commandContext k) with seqPhase := .poll, host := s.host, kbd := ks }
        = { u with kbd := ks } := by
      rw [← hpoll, ← (ports_of_context hkept).1]
      rfl
    have hmoves : u.schedule = [] := (congrArg Context.schedule hkept).trans hempty
    calc step s = .next (pollStep { u with kbd := ks }) := by
          rw [step_of_poll hempty hphase, pollStep_cons_of_ok hk hsub]
      _ = step { u with kbd := ks } := (step_of_poll (s := { u with kbd := ks }) hmoves hpoll).symm
      _ = _ := congrArg step hrest.symm
  | error c =>
    rw [hsub] at hexec
    cases hexec
    refine ⟨fun _ => ?_, fun hne => absurd rfl hne⟩
    rw [step_of_poll hempty hphase, pollStep_cons_of_error hk hsub,
      faultedWith_faultCode_takeFault (by rfl)]
    rfl

/-! The mouse sample (R315). -/

/-- The context in which MOUSE_POLL runs with the mouse sample. -/
def sampleContext (m : MouseSample) (c : Context) : Context :=
  { c with seqPhase := .idle, host := { c.host with arg0 := m.x, arg1 := m.y, arg2 := m.btn } }

theorem exec_mousePoll_sample (m : MouseSample) (s : State) :
    exec .mousePoll (s.mapContext (sampleContext m))
      = complete (s.mapContext (sampleContext m))
          ((mousePoll m.x m.y m.btn s).map (·.mapContext (sampleContext m))) := by
  have hidle : (s.mapContext (sampleContext m)).seqPhase = .idle := rfl
  rw [exec_mousePoll_of_idle hidle, ← mousePoll_mapContext]
  rfl

theorem keySubSteps_of_no_report (hk : s.kbd = []) : keySubSteps s.kbd { s with kbd := [] } = (s, none) := by
  have hsame : { s with kbd := [] } = s := by rw [← hk]
  rw [hk, hsame]
  rfl

/-- Settles O55: the mouse's rule neither reads nor writes the phase and the ports. -/
theorem pollEndsWithTheMouse : Obligations.PollEndsWithTheMouse := by
  intro s t hempty hphase _ hk hexec
  replace hexec := (exec_mousePoll_sample s.mouse s).symm.trans hexec
  rw [step_of_poll hempty hphase]
  cases hmouse : mousePoll s.mouse.x s.mouse.y s.mouse.btn s with
  | ok u =>
    rw [hmouse] at hexec
    cases hexec
    rw [pollStep_of_mouse_ok (keySubSteps_of_no_report hk) hmouse, if_neg (by exact nofun),
      ← (ports_of_context (mousePoll_context hmouse)).1]
    rfl
  | error c =>
    rw [hmouse] at hexec
    cases hexec
    rw [pollStep_of_mouse_fault (keySubSteps_of_no_report hk) hmouse, if_pos (by rfl),
      faultedWith_faultCode_takeFault (by rfl)]

end Sys2Proof.Machine
end

section
/-! The sequencer family (46_sequencer.md), part 4: every change of SEQ_PHASE with its cause, from which the table of
transitions (R311) and the one way into an iteration and the two into TERMINATED (R324, R325) follow. -/

namespace Sys2Proof.Machine

open Sys2Proof.Claims

variable {s t : State} {i : Instr} {n : PortName}

/-- A command waits at the host port and decodes to `i`. -/
def State.HostWaits (s : State) (i : Instr) : Prop := s.host.waiting = true ∧ decodeCommand s.host.cmd = .ok i

/-- The changes of SEQ_PHASE that a step other than reset can make from `s`, each with its cause. -/
inductive PhaseChange (s : State) : Phase → Prop
  | frame (hp : s.seqPhase = .idle) (hw : s.HostWaits .frame) : PhaseChange s .offsets
  | terminate (hp : s.seqPhase = .idle) (hw : s.HostWaits .terminate) : PhaseChange s .terminated
  | runEnds (hp : s.seqPhase = .run) : PhaseChange s .termchk
  | commandFaults (hp : s.seqPhase = .idle ∨ s.seqPhase = .run) : PhaseChange s .faulted
  | offsets (hp : s.seqPhase = .offsets) : PhaseChange s .poll
  | poll (hp : s.seqPhase = .poll) : PhaseChange s .wake
  | pollFaults (hp : s.seqPhase = .poll) : PhaseChange s .faulted
  | wake (hp : s.seqPhase = .wake) : PhaseChange s .run
  | terminated (hp : s.seqPhase = .termchk) (hf : s.termFlag = true) : PhaseChange s .terminated
  | continues (hp : s.seqPhase = .termchk) : PhaseChange s .render
  | renderDelays (hp : s.seqPhase = .render) : PhaseChange s .delay
  | renderEnds (hp : s.seqPhase = .render) : PhaseChange s .idle
  | delayEnds (hp : s.seqPhase = .delay) : PhaseChange s .idle

/-! Commands. -/

theorem ruleOf_seqPhase (hf : i ≠ .frame) (ht : i ≠ .terminate) (h : ruleOf i s = .ok t) :
    t.seqPhase = s.seqPhase := by
  cases i
  case frame => exact absurd rfl hf
  case terminate => exact absurd rfl ht
  case csrRead => obtain rfl | ⟨v, rfl⟩ := csrRead_ok h <;> simp
  case csrWrite => exact seqPhase_of_context (csrWrite_context h)
  case emit => exact seqPhase_of_context (emit_context h)
  case keyRaw => exact seqPhase_of_context (keyRaw_context h)
  case keyCooked => exact seqPhase_of_context (keyCooked_context h)
  case mouseMotion => exact seqPhase_of_context (mouseMotion_context h)
  case mouseButtons => exact seqPhase_of_context (mouseButtons_context h)
  case mousePoll => exact seqPhase_of_context (mousePoll_context h)
  case reportDamage => exact seqPhase_of_context (reportDamage_context h)
  case decWord | tsDelta | coord | down | up | tsAbs | reservedType2 | reservedType67 | reservedType815 =>
    obtain ⟨phase, high, xy, err, k, v, rfl⟩ := ruleOf_of_feedsDecoder rfl h
    exact State.setPort_seqPhase ..
  all_goals cases h
  case nop | decReset | setInputSignal | blitRect => rfl
  case calcOffsets => exact seqPhase_of_context (calcOffsets_context s)
  case checkWake => exact seqPhase_of_context (checkWake_context s)
  case qPop => unfold qPop; split <;> exact State.setPort_seqPhase ..
  case setWake => exact seqPhase_of_context (setWake_context s _ _)
  case drTake => exact State.setPort_seqPhase ..
  case cursorUpdate => exact seqPhase_of_context (cursorUpdate_context s)
  case render => exact seqPhase_of_context (renderPass_context s)

/-- A phase that accepts a class is IDLE or RUN, or halted and the class is A (R312, 60_exceptions.md R368). -/
theorem accepts_cases {p : Phase} {c : CmdClass} (h : p.accepts c = true) :
    p = .idle ∨ p = .run ∨ (c = .A ∧ (p = .terminated ∨ p = .faulted)) := by
  cases p
  case idle => exact .inl rfl
  case run => exact .inr (.inl rfl)
  case terminated => exact .inr (.inr ⟨eq_of_beq h, .inl rfl⟩)
  case faulted => exact .inr (.inr ⟨eq_of_beq h, .inr rfl⟩)
  all_goals cases h

/-- While halted CSR_READ raises no fault (R341, 60_exceptions.md R368). -/
theorem not_halted_of_csrRead_error {index : Word} {e : FaultCode} (h : csrRead index s = .error e) :
    s.halted = false := by
  unfold csrRead at h
  split at h
  · cases h
  · split at h
    · cases h
    next hhalted => exact Bool.eq_false_of_not_eq_true hhalted

theorem not_halted_of_ruleOf_error {e : FaultCode} (hc : i.cls = .A) (h : ruleOf i s = .error e) :
    s.halted = false := by
  cases i <;> cases hc
  case nop => cases h
  case csrRead => exact not_halted_of_csrRead_error h

/-- A command faults in IDLE and in RUN alone. -/
theorem idle_or_run_of_ruleOf_error {e : FaultCode} (ha : s.seqPhase.accepts i.cls = true)
    (h : ruleOf i s = .error e) : s.seqPhase = .idle ∨ s.seqPhase = .run := by
  rcases accepts_cases ha with hp | hp | ⟨hc, hp⟩
  · exact .inl hp
  · exact .inr hp
  · have hhalted : s.halted = true := by rcases hp with hp | hp <;> simp [State.halted, hp]
    exact absurd (hhalted.symm.trans (not_halted_of_ruleOf_error hc h)) nofun

/-- What a command does to SEQ_PHASE. -/
theorem exec_seqPhase (h : exec i s = .next t) :
    t.seqPhase = s.seqPhase
    ∨ (i = .frame ∧ s.seqPhase = .idle ∧ t.seqPhase = .offsets)
    ∨ (i = .terminate ∧ s.seqPhase = .idle ∧ t.seqPhase = .terminated)
    ∨ (s.seqPhase = .run ∧ t.seqPhase = .termchk)
    ∨ ((s.seqPhase = .idle ∨ s.seqPhase = .run) ∧ t.seqPhase = .faulted) := by
  rw [exec_eq_issue] at h
  rcases issue_cases h with ⟨ha, hrule⟩ | ⟨_, ha, he, rfl⟩ | ⟨hrun, _, rfl⟩ | ⟨_, _, rfl⟩
  · by_cases hframe : i = .frame
    · subst hframe
      cases hrule
      exact .inr (.inl ⟨rfl, idle_of_accepts_classH ha, rfl⟩)
    by_cases hterm : i = .terminate
    · subst hterm
      cases hrule
      rcases accepts_cases ha with hp | hp | ⟨hc, _⟩
      · rw [terminate_of_idle hp]
        exact .inr (.inr (.inl ⟨rfl, hp, rfl⟩))
      · rw [terminate_of_run hp]
        exact .inr (.inr (.inr (.inl ⟨hp, rfl⟩)))
      · cases hc
    exact .inl (ruleOf_seqPhase hframe hterm hrule)
  · exact .inr (.inr (.inr (.inr ⟨idle_or_run_of_ruleOf_error ha he, rfl⟩)))
  · exact .inr (.inr (.inr (.inr ⟨.inr hrun, rfl⟩)))
  · exact .inl rfl

theorem issueIllegal_seqPhase (h : issueIllegal s = .next t) :
    t.seqPhase = s.seqPhase ∨ ((s.seqPhase = .idle ∨ s.seqPhase = .run) ∧ t.seqPhase = .faulted) := by
  by_cases hp : s.seqPhase = .idle ∨ s.seqPhase = .run
  · rw [issueIllegal_of_accepting hp] at h
    cases h
    exact .inr ⟨hp, rfl⟩
  · left
    unfold issueIllegal at h
    cases hphase : s.seqPhase <;> rw [hphase] at h hp
    case idle | run => simp at hp
    all_goals
      cases h
      exact hphase

/-- What the block does at a port: nothing, or the command that waits there is run, or its word is illegal. -/
theorem acceptAt_cases (h : acceptAt n s = .next t) :
    t = s
    ∨ (∃ i, (s.port n).waiting = true ∧ decodeCommand (s.port n).cmd = .ok i ∧ exec i (s.accept n) = .next t)
    ∨ issueIllegal (s.accept n) = .next t := by
  unfold acceptAt runCommand at h
  split at h
  next hw =>
    split at h
    next i hd => exact .inr (.inl ⟨i, hw, hd, h⟩)
    next => exact .inr (.inr h)
  next =>
    cases h
    exact .inl rfl

theorem acceptAt_livePort_seqPhase (h : acceptAt s.livePort s = .next t) :
    t.seqPhase = s.seqPhase ∨ PhaseChange s t.seqPhase := by
  have hkept : (s.accept s.livePort).seqPhase = s.seqPhase := State.setPort_seqPhase ..
  rcases acceptAt_cases h with rfl | ⟨i, hw, hd, hexec⟩ | hillegal
  · exact .inl rfl
  · have hhost (hp : s.seqPhase = .idle) : s.HostWaits i := by
      rw [livePort_of_idle hp] at hw hd
      exact ⟨hw, hd⟩
    have hphase := exec_seqPhase hexec
    rw [hkept] at hphase
    rcases hphase with hsame | ⟨rfl, hp, ht⟩ | ⟨rfl, hp, ht⟩ | ⟨hp, ht⟩ | ⟨hp, ht⟩
    · exact .inl hsame
    all_goals rw [ht]; right
    · exact .frame hp (hhost hp)
    · exact .terminate hp (hhost hp)
    · exact .runEnds hp
    · exact .commandFaults hp
  · have hphase := issueIllegal_seqPhase hillegal
    rw [hkept] at hphase
    rcases hphase with hsame | ⟨hp, ht⟩
    · exact .inl hsame
    · exact .inr (ht ▸ .commandFaults hp)

/-! Internal steps, the moves of the outside world, and the step. -/

theorem pollStep_seqPhase (s : State) : (pollStep s).seqPhase = .wake ∨ (pollStep s).seqPhase = .faulted := by
  obtain ⟨t, -, ⟨c, hpoll⟩ | ⟨u, -, hpoll⟩⟩ := pollStep_cases s <;> rw [hpoll]
  · exact .inr rfl
  · exact .inl rfl

theorem renderStep_seqPhase (s : State) : (renderStep s).seqPhase = .idle ∨ (renderStep s).seqPhase = .delay := by
  rw [renderStep]
  split
  · exact .inl rfl
  · exact .inr rfl

theorem delayStep_seqPhase (s : State) : (delayStep s).seqPhase = .idle ∨ (delayStep s).seqPhase = s.seqPhase := by
  rw [delayStep]
  split
  · exact .inl rfl
  · exact .inr rfl

theorem termchkStep_phaseChange (hp : s.seqPhase = .termchk) : PhaseChange s (termchkStep s).seqPhase := by
  unfold termchkStep
  split
  next hf => exact .terminated hp hf
  next => exact .continues hp

theorem internalStep_seqPhase (hi : s.seqPhase.internal = true) (h : blockStep s = .next t) :
    t.seqPhase = s.seqPhase ∨ PhaseChange s t.seqPhase := by
  unfold blockStep at h
  cases hp : s.seqPhase <;> rw [hp] at h hi
  case idle | run | terminated | faulted => cases hi
  all_goals cases h
  case offsets => exact .inr (.offsets hp)
  case poll =>
    rcases pollStep_seqPhase s with ht | ht <;> rw [ht]
    · exact .inr (.poll hp)
    · exact .inr (.pollFaults hp)
  case wake => exact .inr (.wake hp)
  case termchk => exact .inr (termchkStep_phaseChange hp)
  case render =>
    rcases renderStep_seqPhase s with ht | ht <;> rw [ht]
    · exact .inr (.renderEnds hp)
    · exact .inr (.renderDelays hp)
  case delay =>
    rcases delayStep_seqPhase s with ht | ht <;> rw [ht]
    · exact .inr (.delayEnds hp)
    · exact .inl hp

theorem blockStep_seqPhase (h : blockStep s = .next t) : t.seqPhase = s.seqPhase ∨ PhaseChange s t.seqPhase := by
  by_cases hi : s.seqPhase.internal = true
  · exact internalStep_seqPhase hi h
  · rw [blockStep_eq_acceptAt (Bool.eq_false_of_not_eq_true hi)] at h
    exact acceptAt_livePort_seqPhase h

theorem apply_seqPhase {m : Move} (hne : m ≠ .reset) (hr : m.ready s = true) (h : m.apply s = .next t) :
    t.seqPhase = s.seqPhase ∨ PhaseChange s t.seqPhase := by
  cases m
  case block => exact blockStep_seqPhase h
  case reset => exact absurd rfl hne
  all_goals cases h
  case runDone => exact .inr (.runEnds (run_of_ready_runDone hr))
  all_goals exact .inl rfl

/-- The schedule is no cause of a phase change. -/
theorem PhaseChange.of_schedule {rest : List Move} {p : Phase} (h : PhaseChange { s with schedule := rest } p) :
    PhaseChange s p := by
  cases h with
  | frame hp hw => exact .frame hp hw
  | terminate hp hw => exact .terminate hp hw
  | runEnds hp => exact .runEnds hp
  | commandFaults hp => exact .commandFaults hp
  | offsets hp => exact .offsets hp
  | poll hp => exact .poll hp
  | pollFaults hp => exact .pollFaults hp
  | wake hp => exact .wake hp
  | terminated hp hf => exact .terminated hp hf
  | continues hp => exact .continues hp
  | renderDelays hp => exact .renderDelays hp
  | renderEnds hp => exact .renderEnds hp
  | delayEnds hp => exact .delayEnds hp

/-- What a step but reset does to SEQ_PHASE. -/
theorem step_seqPhase (hne : s.schedule.head? ≠ some .reset) (h : step s = .next t) :
    t.seqPhase = s.seqPhase ∨ PhaseChange s t.seqPhase := by
  rcases step_cases h with h | ⟨m, rest, hm, hr, ha⟩
  · exact blockStep_seqPhase h
  · have hmove : m ≠ .reset := by
      rintro rfl
      exact hne (by rw [hm]; rfl)
    exact (apply_seqPhase hmove hr ha).imp_right PhaseChange.of_schedule

theorem PhaseChange.mem_phaseTable {p : Phase} (h : PhaseChange s p) : (s.seqPhase, p) ∈ phaseTable := by
  cases h
  case commandFaults hp => rcases hp with hp | hp <;> rw [hp] <;> decide
  case frame hp _ | terminate hp _ | terminated hp _ => rw [hp]; decide
  case runEnds hp | offsets hp | poll hp | pollFaults hp | wake hp | continues hp | renderDelays hp | renderEnds hp
      | delayEnds hp =>
    rw [hp]
    decide

/-- Settles O19: every change with its cause is a row of the table. -/
theorem phasesFollowTheTable : Obligations.PhasesFollowTheTable :=
  fun _ _ hne h => (step_seqPhase hne h).imp_right PhaseChange.mem_phaseTable

/-- Settles O20: of the changes, one leads to OFFSETS and two to TERMINATED. -/
theorem iterationStartsByFrameEndsByTerminate : Obligations.IterationStartsByFrameEndsByTerminate := by
  intro s t hne h hmoved
  have hchange := (step_seqPhase hne h).resolve_left hmoved
  refine ⟨fun ht => ?_, fun ht => ?_⟩ <;> rw [ht] at hchange
  · cases hchange with
    | frame hp hw => exact ⟨hp, hw⟩
  · cases hchange with
    | terminate hp hw => exact .inl ⟨hp, hw⟩
    | terminated hp hf => exact .inr ⟨hp, hf⟩

end Sys2Proof.Machine
end

section
/-! The sequencer family (46_sequencer.md), part 5: a quiet iteration (R327), one phase after the other. -/

namespace Sys2Proof.Machine

open Sys2Proof.Claims

variable {s t : State} {es : List Output}

/-- A block of a quiet iteration, in phase `p`, with `moves` scheduled and the output trace `es`: nothing waits at the
peer port, no wake, no damage, no frame delay and no termination. -/
structure State.Quiet (s : State) (p : Phase) (moves : List Move) (es : List Output) : Prop where
  phase : s.seqPhase = p
  schedule : s.schedule = moves
  trace : s.trace = es
  peer : s.peer.waiting = false
  cycles : s.cyclesPerFrame = 100
  vsync : s.vsync = true
  termFlag : s.termFlag = false
  damage : s.drW = 0 ∨ s.drH = 0
  wake : s.swPending = false

/-- No keyboard report, and a mouse whose reported position and buttons are the sampled ones. -/
structure State.InputsQuiet (s : State) : Prop where
  kbd : s.kbd = []
  policy : s.cfg.motionPolicy = .onChange
  known : s.mposValid = true
  x : s.mouse.x.toNat = s.lastMx.toNat
  y : s.mouse.y.toNat = s.lastMy.toNat
  btn0 : maskBit s.mouse.btn 1 = s.btn0.down
  btn1 : maskBit s.mouse.btn 2 = s.btn1.down
  btn2 : maskBit s.mouse.btn 4 = s.btn2.down

/-- Outside RUN a scheduled RunDone is held back, and the block moves (log 6). -/
theorem step_of_early_runDone {rest : List Move} (hm : s.schedule = .runDone :: rest) (hp : s.seqPhase ≠ .run) :
    step s = blockStep s := by
  have hready : ¬ Move.ready s .runDone = true := by simp [Move.ready, hp]
  rw [step, advance, hm]
  exact if_neg hready

/-! The mouse sample of a quiet poll (R213, R211). -/

theorem buttonEvents_of_unchanged {b : Button} {now : Bool} (h : now = b.down) (code : Byte) :
    buttonEvents b now code = [] := by
  obtain ⟨down, latched⟩ := b
  subst h
  cases now <;> rfl

theorem not_reported_of_quiet (h : s.InputsQuiet) : ¬ reported s.mouse.x s.mouse.y s := by
  rintro (hp | hv | hx | hy)
  · exact absurd (hp.symm.trans h.policy) nofun
  · exact absurd (hv.symm.trans h.known) nofun
  · exact hx h.x
  · exact hy h.y

theorem maskEvents_of_quiet (h : s.InputsQuiet) : maskEvents s.mouse.btn s = [] := by
  rw [maskEvents, buttonEvents_of_unchanged h.btn0, buttonEvents_of_unchanged h.btn1, buttonEvents_of_unchanged h.btn2]
  rfl

/-- A quiet mouse sample emits nothing: it moves the cursor and samples the buttons. -/
theorem mousePoll_of_quiet (h : s.InputsQuiet) :
    mousePoll s.mouse.x s.mouse.y s.mouse.btn s
      = .ok (withButtons s.mouse.btn (cursorAt s.mouse.x s.mouse.y s)) := by
  rw [mousePoll_eq, positionEvents_of_unreported (not_reported_of_quiet h), maskEvents_of_quiet h,
    samplePosition_of_unreported (not_reported_of_quiet h)]
  rfl

/-! The phases of a quiet iteration (R327). -/

theorem quiet_frame (hq : s.Quiet .idle [.runDone] es) (hi : s.InputsQuiet) (hw : s.host.waiting = true)
    (hcmd : s.host.cmd = 1) : ∃ t, step s = .next t ∧ t.Quiet .offsets [.runDone] es ∧ t.InputsQuiet := by
  have hstep : step s = .next { s.accept .host with seqPhase := .offsets } := by
    rw [step_of_early_runDone hq.schedule (by rw [hq.phase]; exact nofun),
      blockStep_of_decodes (i := .frame) (by rw [hq.phase]; rfl) (livePort_of_idle hq.phase) hw
        (by rw [State.port, hcmd]; rfl)]
    exact exec_frame_of_idle (s := s.accept .host) hq.phase
  exact ⟨_, hstep, { hq with phase := rfl }, { hi with }⟩

theorem quiet_offsets (hq : s.Quiet .offsets [.runDone] es) (hi : s.InputsQuiet) :
    ∃ t, step s = .next t ∧ t.Quiet .poll [.runDone] es ∧ t.InputsQuiet := by
  rw [step_of_early_runDone hq.schedule (by rw [hq.phase]; exact nofun), blockStep_of_offsets hq.phase]
  exact ⟨_, rfl, { hq with phase := rfl }, { hi with }⟩

theorem quiet_poll (hq : s.Quiet .poll [.runDone] es) (hi : s.InputsQuiet) :
    ∃ t, step s = .next t ∧ t.Quiet .wake [.runDone] es := by
  rw [step_of_early_runDone hq.schedule (by rw [hq.phase]; exact nofun), blockStep_of_poll hq.phase,
    pollStep_of_mouse_ok (keySubSteps_of_no_report hi.kbd) (mousePoll_of_quiet hi)]
  exact ⟨_, rfl, { hq with phase := rfl }⟩

theorem quiet_wake (hq : s.Quiet .wake [.runDone] es) :
    ∃ t, step s = .next t ∧ t.Quiet .run [.runDone] (es ++ [.runRequest 100]) := by
  have hchecked : wakeChecked s = s := if_pos hq.wake
  rw [step_of_early_runDone hq.schedule (by rw [hq.phase]; exact nofun), blockStep_of_wake hq.phase, hchecked]
  exact ⟨_, rfl, { hq with phase := rfl, trace := by rw [hq.trace, hq.cycles] }⟩

theorem quiet_runDone (hq : s.Quiet .run [.runDone] es) : ∃ t, step s = .next t ∧ t.Quiet .termchk [] es :=
  ⟨_, step_of_runDone hq.schedule hq.phase hq.peer, { hq with phase := rfl, schedule := rfl }⟩

theorem quiet_termchk (hq : s.Quiet .termchk [] es) : ∃ t, step s = .next t ∧ t.Quiet .render [] es := by
  rw [step_of_no_move hq.schedule, blockStep_of_termchk hq.phase]
  exact ⟨_, rfl, { hq with phase := by rw [hq.termFlag]; rfl }⟩

theorem quiet_render (hq : s.Quiet .render [] es) : ∃ t, step s = .next t ∧ t.Quiet .idle [] es := by
  have hrendered : rendered s = s := if_pos hq.damage
  rw [step_of_no_move hq.schedule, blockStep_of_render hq.phase, if_pos (.inl hq.vsync), hrendered]
  exact ⟨_, rfl, { hq with phase := rfl }⟩

/-- A run whose first step is known. -/
theorem run_succ_of_step {n : Nat} (h : step s = .next t) : Host.Core.run core (n + 1) s = Host.Core.run core n t := by
  have hcore : core.step s = .next t := h
  simp only [Host.Core.run, hcore]

/-- Settles O56, phase by phase. -/
theorem quietIterationOnlyRequestsTheRun : Obligations.QuietIterationOnlyRequestsTheRun := by
  intro s hphase hwaits hcmd hpeer hmoves hcycles hvsync hterm hdamage hwake hkbd hpolicy hreported hx hy h0 h1 h2
  have hq : s.Quiet .idle [.runDone] s.trace := ⟨hphase, hmoves, rfl, hpeer, hcycles, hvsync, hterm, hdamage, hwake⟩
  have hi : s.InputsQuiet := ⟨hkbd, hpolicy, hreported, hx, hy, h0, h1, h2⟩
  obtain ⟨s1, hstep1, hq1, hi1⟩ := quiet_frame hq hi hwaits hcmd
  obtain ⟨s2, hstep2, hq2, hi2⟩ := quiet_offsets hq1 hi1
  obtain ⟨s3, hstep3, hq3⟩ := quiet_poll hq2 hi2
  obtain ⟨s4, hstep4, hq4⟩ := quiet_wake hq3
  obtain ⟨s5, hstep5, hq5⟩ := quiet_runDone hq4
  obtain ⟨s6, hstep6, hq6⟩ := quiet_termchk hq5
  obtain ⟨s7, hstep7, hq7⟩ := quiet_render hq6
  refine ⟨s7, ?_, hq7.phase, hq7.trace⟩
  rw [run_succ_of_step hstep1, run_succ_of_step hstep2, run_succ_of_step hstep3, run_succ_of_step hstep4,
    run_succ_of_step hstep5, run_succ_of_step hstep6, run_succ_of_step hstep7]
  rfl

end Sys2Proof.Machine
end

section
/-! The control family (47_control.md): what each index of CSR_READ returns and of CSR_WRITE writes, and NOP. The model's
index map is one list of registers, which both commands look an index up in. -/

namespace Sys2Proof.Machine

open Sys2Proof.Claims

variable {s : State} {index : Word} {r : Csr}

/-! The index map (R340) as a list. -/

/-- The registers by rising index. -/
def csrsByIndex : List Csr :=
  [.status, .ctrl, .faultCode, .cyclesPerFrame, .frameDelay, .fgColor, .bgColor, .cursorColor, .lastTick, .evtCount,
    .qCount, .qHead, .qdepth, .inSig, .modState, .btnState, .mouseLast, .cursorNew, .cursorPrev, .drX, .drY, .drW, .drH,
    .offset, .swSignal, .swTick, .decState, .delayStart]

theorem csrOfIndex_eq_getElem? (index : Word) : csrOfIndex index = csrsByIndex[index.toNat]? := by
  unfold csrOfIndex
  generalize index.toNat = n
  rcases Nat.lt_or_ge n 28 with hlt | hge
  · interval_cases n <;> rfl
  · obtain ⟨k, rfl⟩ := Nat.exists_eq_add_of_le' hge
    rfl

theorem csrOfIndex_of_undefined (h : 0x1C ≤ index.toNat) : csrOfIndex index = none :=
  (csrOfIndex_eq_getElem? index).trans (List.getElem?_eq_none h)

/-- No register has two indices. -/
theorem toNat_of_csrOfIndex (h : csrOfIndex index = some r) : index.toNat = csrsByIndex.idxOf r := by
  rw [csrOfIndex_eq_getElem?] at h
  obtain ⟨hlt, rfl⟩ := List.getElem?_eq_some_iff.mp h
  have hnodup : csrsByIndex.Nodup := by decide
  exact (hnodup.idxOf_getElem _ hlt).symm

/-! The views of several fields (R340) as sums of weights. -/

/-- The defined bits of CTRL are its value modulo 4. -/
theorem and_ctrlMask (v : Word) : v &&& ctrlMask = BitVec.ofNat 32 (v.toNat % 4) := by
  apply BitVec.eq_of_toNat_eq
  rw [BitVec.toNat_and, BitVec.toNat_ofNat, Nat.mod_eq_of_lt (by omega)]
  exact Nat.and_two_pow_sub_one_eq_mod v.toNat 2

theorem ctrl_eq_bits (s : State) :
    s.ctrl &&& ctrlMask = BitVec.ofNat 32 (bit s.undecoded 0 + bit s.vsync 1) := by
  rw [and_ctrlMask, bit_eq_mul_toNat, bit_eq_mul_toNat, State.undecoded, State.vsync, ← BitVec.testBit_toNat,
    ← BitVec.testBit_toNat, Nat.toNat_testBit, Nat.toNat_testBit]
  congr 1
  omega

theorem eq_ofNat_of_toNat_eq {v : Word} {n : Nat} (h : v.toNat = n) : v = BitVec.ofNat 32 n := by
  rw [← h, BitVec.ofNat_toNat, BitVec.setWidth_eq]

theorem btnState_eq_fields (s : State) :
    s.btnState = BitVec.ofNat 32 (bit s.btn0.down 0 + bit s.btn1.down 1 + bit s.btn2.down 2
      + 2 ^ 8 * s.btn0.code.toNat + 2 ^ 16 * s.btn1.code.toNat + 2 ^ 24 * s.btn2.code.toNat) := by
  refine eq_ofNat_of_toNat_eq ?_
  simp only [State.btnState, append_toNat, flagBit, BitVec.toNat_ofBool, bit_eq_mul_toNat,
    BitVec.ofNat_eq_ofNat, BitVec.toNat_ofNat]
  omega

theorem decState_eq_fields (s : State) :
    s.decState = BitVec.ofNat 32 (s.decPhase.code.toNat + bit s.decXy 2 + 2 ^ 16 * s.decHi.toNat) := by
  refine eq_ofNat_of_toNat_eq ?_
  simp only [State.decState, append_toNat, flagBit, BitVec.toNat_ofBool, bit_eq_mul_toNat,
    BitVec.ofNat_eq_ofNat, BitVec.toNat_ofNat]
  omega

/-- Two halves in one register, the first named in the low one. -/
theorem append_eq_ofNat_add (low high : Half) :
    high ++ low = BitVec.ofNat 32 (low.toNat + 2 ^ 16 * high.toNat) := by
  rw [← ofNat_append, Nat.add_comm low.toNat]

/-- The map of R340 lists the model's registers in the order of their indices, each with the model's value. -/
theorem csrMap_values (s : State) :
    csrsByIndex.map (csrValue s) = (csrMap s).map fun entry => BitVec.ofNat 32 entry.2 := by
  simp only [csrsByIndex, csrMap, csrValue, List.cons_append, List.nil_append, List.map_cons, List.map_nil,
    status_eq_statusBits, ctrl_eq_bits, btnState_eq_fields, decState_eq_fields, append_eq_ofNat_add,
    BitVec.ofNat_toNat, BitVec.setWidth_eq]

theorem csrMap_indices (s : State) : (csrMap s).map Prod.fst = List.range csrsByIndex.length := rfl

/-- An entry of the map is the register its index names, with that register's value. -/
theorem csrOfIndex_of_mem_csrMap {v : Nat} (h : (index.toNat, v) ∈ csrMap s) :
    ∃ r, csrOfIndex index = some r ∧ csrValue s r = BitVec.ofNat 32 v := by
  obtain ⟨k, hk⟩ := List.mem_iff_getElem?.mp h
  have hindex := congrArg (·[k]?) (csrMap_indices s)
  have hvalue := congrArg (·[k]?) (csrMap_values s)
  simp only [List.getElem?_map, hk, Option.map_some] at hindex hvalue
  obtain ⟨r, hr, hv⟩ := Option.map_eq_some_iff.mp hvalue
  obtain ⟨_, hrange⟩ := List.getElem?_eq_some_iff.mp hindex.symm
  rw [List.getElem_range] at hrange
  exact ⟨r, by rw [csrOfIndex_eq_getElem?, ← hrange, hr], hv⟩

/-! NOP and CSR_READ (R343, R341): class A. -/

theorem accepts_classA_of_not_internal {p : Phase} (h : p.internal = false) : p.accepts .A = true := by
  cases p
  case idle | run | terminated | faulted => rfl
  all_goals cases h

/-- Every phase without internal steps runs a command of class A (46_sequencer.md R312). -/
theorem exec_of_classA {i : Instr} (hc : i.cls = .A) (hp : s.seqPhase.internal = false) :
    exec i s = complete s (ruleOf i s) := by
  rw [exec_eq_issue, hc, issue_of_accepts _ (accepts_classA_of_not_internal hp)]

/-- Settles O59: where NOP is executed its rule is the state as it is, and elsewhere it waits. -/
theorem nopWritesNothing : Obligations.NopWritesNothing := by
  intro s
  cases hp : s.seqPhase.internal
  case false => exact exec_of_classA rfl hp
  case true => exact exec_of_internal hp .nop

theorem exec_csrRead_of_mem_csrMap {n : PortName} {v : Nat} (hp : s.seqPhase.internal = false) (hn : s.livePort = n)
    (h : (s.arg0.toNat, v) ∈ csrMap s) :
    exec .csrRead s = .next (s.setPort n fun p => { p with res0 := BitVec.ofNat 32 v }) := by
  obtain ⟨r, hr, hv⟩ := csrOfIndex_of_mem_csrMap h
  have hrule : csrRead s.arg0 s = .ok (s.setRes0 (BitVec.ofNat 32 v)) := by rw [csrRead, hr, ← hv]
  rw [← hn, exec_of_classA rfl hp, ruleOf, hrule]
  rfl

theorem csrRead_of_undefined (h : csrOfIndex index = none) :
    csrRead index s = if s.halted then .ok s else .error .badCsr := by
  rw [csrRead, h]

/-- Settles O57: a mapped index is looked up in the model's list, an undefined one faults unless halted. -/
theorem csrReadReturnsTheMappedValue : Obligations.CsrReadReturnsTheMappedValue := by
  refine ⟨?_, fun s h => ⟨fun hp => ?_, fun hp => ?_⟩⟩
  · rintro s _ v hmap rfl
    refine ⟨fun hrun => ?_, fun hhost => ?_⟩
    · obtain ⟨hp, hn⟩ := livePort_of_phase (.inl ⟨rfl, hrun⟩)
      exact exec_csrRead_of_mem_csrMap hp hn hmap
    · obtain ⟨hp, hn⟩ := livePort_of_phase (.inr ⟨rfl, hhost⟩)
      exact exec_csrRead_of_mem_csrMap hp hn hmap
  · have hhalted : s.halted = false := by rcases hp with hp | hp <;> simp [State.halted, hp]
    rw [exec_of_idle_or_run hp .csrRead nofun, ruleOf, csrRead_of_undefined (csrOfIndex_of_undefined h), hhalted]
    rfl
  · have hhalted : s.halted = true := by rcases hp with hp | hp <;> simp [State.halted, hp]
    obtain ⟨hinternal, -⟩ := livePort_of_phase (.inr ⟨rfl, .inr hp⟩)
    rw [exec_of_classA rfl hinternal, ruleOf, csrRead_of_undefined (csrOfIndex_of_undefined h), hhalted]
    rfl

/-! CSR_WRITE (R342). -/

/-- The registers CSR_WRITE writes. -/
def writableCsrs : List Csr :=
  [.status, .ctrl, .cyclesPerFrame, .frameDelay, .fgColor, .bgColor, .cursorColor]

theorem csrStore_of_readOnly (h : r ∉ writableCsrs) (v : Word) (s : State) : csrStore r v s = .error .badCsr := by
  cases r
  case status | ctrl | cyclesPerFrame | frameDelay | fgColor | bgColor | cursorColor => exact absurd (by decide) h
  all_goals rfl

theorem csrWrite_of_index (h : csrsByIndex[index.toNat]? = some r) (v : Word) (s : State) :
    csrWrite index v s = csrStore r v s := by
  rw [csrWrite, csrOfIndex_eq_getElem?, h]

/-- Every index but those of the writable registers faults BAD_CSR. -/
theorem csrWrite_of_not_writable (h : index.toNat ∉ writableCsrs.map csrsByIndex.idxOf) (v : Word) (s : State) :
    csrWrite index v s = .error .badCsr := by
  unfold csrWrite
  cases hr : csrOfIndex index with
  | none => rfl
  | some r =>
    refine csrStore_of_readOnly (fun hwritable => h ?_) v s
    rw [toNat_of_csrOfIndex hr]
    exact List.mem_map_of_mem hwritable

/-- STATUS is write-1-to-clear. -/
theorem writeStatus_eq (s : State) (v : Word) :
    s.writeStatus v =
      { s with
        qOvf := if v.getLsbD 0 then false else s.qOvf
        decErr := if v.getLsbD 1 then false else s.decErr } := by
  have hclear (b c : Bool) : (b && !c) = if c then false else b := by cases b <;> cases c <;> rfl
  rw [State.writeStatus, hclear, hclear]

/-- Settles O58: each writable register's index stores it, and no other index is one of theirs. -/
theorem csrWriteWritesOnlyItsRegister : Obligations.CsrWriteWritesOnlyItsRegister := by
  intro s hs v
  have hexec : exec .csrWrite s = complete s (csrWrite s.arg0 v s) := exec_of_idle hs .csrWrite
  have hstore {k : Nat} {r : Csr} (hk : s.arg0.toNat = k) (hr : csrsByIndex[k]? = some r) :
      exec .csrWrite s = complete s (csrStore r v s) := by
    rw [hexec, csrWrite_of_index (hk ▸ hr)]
  split
  next hk =>
    rw [hstore hk (r := .status) rfl, ← writeStatus_eq]
    rfl
  next hk =>
    rw [hstore hk (r := .ctrl) rfl, ← and_ctrlMask]
    rfl
  next hk => exact hstore hk (r := .cyclesPerFrame) rfl
  next hk => exact hstore hk (r := .frameDelay) rfl
  next hk => exact hstore hk (r := .fgColor) rfl
  next hk => exact hstore hk (r := .bgColor) rfl
  next hk => exact hstore hk (r := .cursorColor) rfl
  next h0 h1 h3 h4 h5 h6 h7 =>
    have hother : s.arg0.toNat ∉ writableCsrs.map csrsByIndex.idxOf := by
      show s.arg0.toNat ∉ [0, 1, 3, 4, 5, 6, 7]
      simp only [List.mem_cons, List.not_mem_nil, or_false, not_or]
      exact ⟨h0, h1, h3, h4, h5, h6, h7⟩
    rw [hexec, csrWrite_of_not_writable hother]
    rfl

end Sys2Proof.Machine
end

section
/-! The exceptions family (60_exceptions.md): a command that faults changes the fault code and the phase alone, and while
halted the block changes nothing but the registers of the host port. -/

namespace Sys2Proof.Machine

open Sys2Proof.Claims

variable {s t : State} {i : Instr}

/-! The fault transition (R361, R362, R366). -/

theorem code_pos (c : FaultCode) : 1 ≤ c.code.toNat :=
  Nat.one_le_iff_ne_zero.mpr fun h => code_ne_zero c (BitVec.eq_of_toNat_eq h)

theorem takeFault_eq_faultedWith (s : State) (c : FaultCode) : s.takeFault c = faultedWith s c.code := rfl

/-- A rule that stands does not enter FAULTED: only the fault transition does. -/
theorem not_faulted_of_ruleOf_ok (hs : s.seqPhase ≠ .faulted) (h : ruleOf i s = .ok t) : t.seqPhase ≠ .faulted := by
  by_cases hframe : i = .frame
  · subst hframe
    cases h
    exact nofun
  by_cases hterm : i = .terminate
  · subst hterm
    cases h
    unfold terminate
    split <;> exact nofun
  rwa [ruleOf_seqPhase hframe hterm h]

/-- A command that enters FAULTED does so by the fault transition from the state before it. -/
theorem takeFault_of_exec_faulted (h : exec i s = .next t) (hs : s.seqPhase ≠ .faulted) (ht : t.seqPhase = .faulted) :
    ∃ c, t = s.takeFault c := by
  rw [exec_eq_issue] at h
  rcases issue_cases h with ⟨_, hrule⟩ | ⟨c, _, _, hfault⟩ | ⟨_, _, hfault⟩ | ⟨_, _, rfl⟩
  · exact absurd ht (not_faulted_of_ruleOf_ok hs hrule)
  · exact ⟨c, hfault⟩
  · exact ⟨.illegalCmd, hfault⟩
  · exact absurd ht hs

/-- Settles O12: the only way a command enters FAULTED is the fault transition, and every fault code is one of 1 to 6. -/
theorem faultsArePrecise : Obligations.FaultsArePrecise := by
  intro i s t h hs ht
  obtain ⟨c, rfl⟩ := takeFault_of_exec_faulted h hs ht
  exact ⟨c.code, code_pos c, code_le_six c, takeFault_eq_faultedWith s c⟩

/-! Halted (R367, R368). -/

/-- Settles O11: what a halted block does with the commands that are not of class A. -/
theorem haltedIgnoresAllButClassA : Obligations.HaltedIgnoresAllButClassA :=
  fun i _ hp hc => exec_of_halted hp i hc

/-- Of class A, NOP writes nothing and CSR_READ at most RES0 (R341, R343). -/
theorem ruleOf_ok_of_classA (hc : i.cls = .A) (h : ruleOf i s = .ok t) : t = s ∨ ∃ v, t = s.setRes0 v := by
  cases i <;> cases hc
  case nop =>
    cases h
    exact .inl rfl
  case csrRead => exact csrRead_ok h

section Halted

variable (hp : s.seqPhase = .terminated ∨ s.seqPhase = .faulted)
include hp

theorem not_idle_or_run_of_halted : ¬ (s.seqPhase = .idle ∨ s.seqPhase = .run) := by
  rcases hp with hp | hp <;> simp [hp]

theorem internal_eq_false_of_halted : s.seqPhase.internal = false := by
  rcases hp with hp | hp <;> rw [hp] <;> rfl

/-- The host port is the live one while halted, and class A is the one class accepted. -/
theorem exec_host_of_halted (h : exec i s = .next t) : ∃ p, t = { s with host := p } := by
  rw [exec_eq_issue] at h
  rcases issue_cases h with ⟨ha, hrule⟩ | ⟨e, ha, he, _⟩ | ⟨hrun, _⟩ | ⟨_, _, rfl⟩
  · obtain hidle | hrun | ⟨hc, _⟩ := accepts_cases ha
    · exact absurd (.inl hidle) (not_idle_or_run_of_halted hp)
    · exact absurd (.inr hrun) (not_idle_or_run_of_halted hp)
    · obtain rfl | ⟨v, rfl⟩ := ruleOf_ok_of_classA hc hrule
      · exact ⟨_, rfl⟩
      · rw [State.setRes0, livePort_of_halted hp]
        exact ⟨_, rfl⟩
  · exact absurd (idle_or_run_of_ruleOf_error ha he) (not_idle_or_run_of_halted hp)
  · exact absurd (.inr hrun) (not_idle_or_run_of_halted hp)
  · exact ⟨_, rfl⟩

/-- A halted block accepts the command at the host port, and neither that nor the command changes another register. -/
theorem blockStep_host_of_halted (h : blockStep s = .next t) : ∃ p, t = { s with host := p } := by
  rw [blockStep_eq_acceptAt (internal_eq_false_of_halted hp), livePort_of_halted hp] at h
  rcases acceptAt_cases h with rfl | ⟨i, _, _, hexec⟩ | hillegal
  · exact ⟨_, rfl⟩
  · exact exec_host_of_halted (s := s.accept .host) hp hexec
  · rw [issueIllegal_of_halted (s := s.accept .host) hp] at hillegal
    cases hillegal
    exact ⟨_, rfl⟩

/-- The moves of the outside world write the ports and the inputs; RunDone, which would move the phase, comes in RUN
alone (R66). -/
theorem apply_keeps_halt {m : Move} (hne : m ≠ .reset) (hr : m.ready s = true) (h : m.apply s = .next t) :
    t.seqPhase = s.seqPhase ∧ t.faultCode = s.faultCode ∧ t.trace = s.trace := by
  cases m
  case block =>
    obtain ⟨p, rfl⟩ := blockStep_host_of_halted hp h
    exact ⟨rfl, rfl, rfl⟩
  case reset => exact absurd rfl hne
  case runDone => exact absurd (.inr (run_of_ready_runDone hr)) (not_idle_or_run_of_halted hp)
  all_goals
    cases h
    exact ⟨rfl, rfl, rfl⟩

end Halted

/-- Settles O14: the block's own transition changes the host port alone, and no move but reset leaves the halt. -/
theorem onlyResetLeavesHalted : Obligations.OnlyResetLeavesHalted := by
  intro s t hp hne h
  rcases step_cases h with hblock | ⟨m, rest, hm, hr, happly⟩
  · obtain ⟨p, rfl⟩ := blockStep_host_of_halted hp hblock
    exact ⟨rfl, rfl, rfl⟩
  · have hmove : m ≠ .reset := by
      rintro rfl
      exact hne (by rw [hm]; rfl)
    exact apply_keeps_halt (s := { s with schedule := rest }) hp hmove hr happly

end Sys2Proof.Machine
end

section
/-! The hazards family (70_reset_and_hazards.md R414): the configuration registers have one writer, CSR_WRITE, which is
of class H; and outside IDLE no command of class H runs. -/

namespace Sys2Proof.Machine

open Sys2Proof.Claims

variable {s t : State} {i : Instr}

/-! The rules that run outside IDLE: those of the commands not of class H. -/

theorem setPort_configRegs (s : State) (n : PortName) (f : Port → Port) :
    configRegs (s.setPort n f) = configRegs s := by
  cases n <;> rfl

theorem csrRead_configRegs {index : Word} (h : csrRead index s = .ok t) : configRegs t = configRegs s := by
  obtain rfl | ⟨v, rfl⟩ := csrRead_ok h
  · rfl
  · exact setPort_configRegs s _ _

theorem qPop_configRegs (s : State) : configRegs (qPop s) = configRegs s := by
  unfold qPop
  split
  · exact setPort_configRegs s _ _
  · exact setPort_configRegs s.dequeue _ _

theorem reportDamage_configRegs {r : Rect} (h : reportDamage r s = .ok t) : configRegs t = configRegs s := by
  obtain ⟨_, _, rfl | rfl⟩ := reportDamage_ok h <;> rfl

theorem setWake_configRegs (s : State) (signal tick : Word) : configRegs (setWake signal tick s) = configRegs s := by
  unfold setWake
  split <;> rfl

theorem ruleOf_configRegs (hc : i.cls ≠ .H) (h : ruleOf i s = .ok t) : configRegs t = configRegs s := by
  cases i
  case csrRead => exact csrRead_configRegs h
  case reportDamage => exact reportDamage_configRegs h
  case nop | setInputSignal | terminate => cases h; rfl
  case qPop => cases h; exact qPop_configRegs s
  case setWake => cases h; exact setWake_configRegs s _ _
  all_goals exact absurd rfl hc

/-! The commands at the live port. -/

theorem exec_configRegs (hs : s.seqPhase ≠ .idle) (h : exec i s = .next t) : configRegs t = configRegs s := by
  rw [exec_eq_issue] at h
  rcases issue_cases h with ⟨ha, hrule⟩ | ⟨_, _, _, rfl⟩ | ⟨_, _, rfl⟩ | ⟨_, _, rfl⟩
  · have hclass : i.cls ≠ .H := fun hH => hs (idle_of_accepts_classH (hH ▸ ha))
    exact ruleOf_configRegs hclass hrule
  all_goals rfl

theorem issueIllegal_configRegs (h : issueIllegal s = .next t) : configRegs t = configRegs s := by
  unfold issueIllegal at h
  cases hp : s.seqPhase <;> rw [hp] at h
  all_goals
    cases h
    rfl

theorem acceptAt_configRegs {n : PortName} (hs : s.seqPhase ≠ .idle) (h : acceptAt n s = .next t) :
    configRegs t = configRegs s := by
  have haccepted : configRegs (s.accept n) = configRegs s := setPort_configRegs s _ _
  rcases acceptAt_cases h with rfl | ⟨i, _, _, hexec⟩ | hillegal
  · rfl
  · have hphase : (s.accept n).seqPhase ≠ .idle := by rwa [State.accept_seqPhase]
    exact (exec_configRegs hphase hexec).trans haccepted
  · exact (issueIllegal_configRegs hillegal).trans haccepted

/-! The internal steps of an iteration (46_sequencer.md R314 to R320). -/

theorem emitGroup_configRegs {events : List Event} (h : emitGroup events s = .ok t) : configRegs t = configRegs s := by
  have hkept := congrArg configRegs (emitGroup_frame h)
  exact hkept

theorem keySubStep_configRegs {k : KeyReport} (h : keySubStep k s = .ok t) : configRegs t = configRegs s := by
  unfold keySubStep at h
  split at h
  · obtain ⟨_, hgroup⟩ := emitGroup_of_keyRaw_ok h
    exact (emitGroup_configRegs hgroup).trans rfl
  · obtain ⟨_, hgroup⟩ := emitGroup_of_keyCooked_ok h
    exact emitGroup_configRegs hgroup

theorem keySubSteps_configRegs (ks : List KeyReport) (s : State) : configRegs (keySubSteps ks s).1 = configRegs s :=
  keySubSteps_induct (P := fun t => configRegs t = configRegs s)
    (fun _ _ _ hs h => (keySubStep_configRegs h).trans hs) ks s rfl

theorem samplePosition_configRegs (s : State) (x y : Word) : configRegs (s.samplePosition x y) = configRegs s := by
  unfold State.samplePosition
  split <;> rfl

theorem mousePoll_configRegs {x y mask : Word} (h : mousePoll x y mask s = .ok t) : configRegs t = configRegs s :=
  (emitGroup_configRegs h).trans (samplePosition_configRegs s x y)

theorem pollStep_configRegs (s : State) : configRegs (pollStep s) = configRegs s := by
  have hkeys : configRegs (keySubSteps s.kbd { s with kbd := [] }).1 = configRegs s := keySubSteps_configRegs _ _
  obtain ⟨t, rfl, ⟨c, hpoll⟩ | ⟨u, hu, hpoll⟩⟩ := pollStep_cases s <;> rw [hpoll]
  · exact hkeys
  · exact (mousePoll_configRegs hu).trans hkeys

theorem calcOffsets_configRegs (s : State) : configRegs (calcOffsets s) = configRegs s := by
  unfold calcOffsets
  split <;> rfl

theorem checkWake_configRegs (s : State) : configRegs (checkWake s) = configRegs s := by
  unfold checkWake
  split
  · dsimp only
    split <;> rfl
  · rfl

theorem cursorUpdate_configRegs (s : State) : configRegs (cursorUpdate s) = configRegs s := by
  unfold cursorUpdate
  split <;> rfl

theorem renderPass_configRegs (s : State) : configRegs (renderPass s) = configRegs s := by
  unfold renderPass
  split
  · rfl
  · exact cursorUpdate_configRegs (blitRect s.dirty s.clearDirty)

theorem renderStep_configRegs (s : State) : configRegs (renderStep s) = configRegs s := by
  rw [renderStep]
  split <;> exact renderPass_configRegs s

theorem delayStep_configRegs (s : State) : configRegs (delayStep s) = configRegs s := by
  rw [delayStep]
  split <;> rfl

/-! The step (46_sequencer.md R311). -/

theorem blockStep_configRegs (hs : s.seqPhase ≠ .idle) (h : blockStep s = .next t) : configRegs t = configRegs s := by
  unfold blockStep at h
  cases hp : s.seqPhase <;> rw [hp] at h
  case idle => exact absurd hp hs
  case run | terminated | faulted => exact acceptAt_configRegs hs h
  all_goals cases h
  case offsets => exact calcOffsets_configRegs s
  case poll => exact pollStep_configRegs s
  case wake => exact checkWake_configRegs s
  case termchk => rfl
  case render => exact renderStep_configRegs s
  case delay => exact delayStep_configRegs s

/-- The outside world writes the ports, the inputs and, by RunDone, the phase. -/
theorem apply_configRegs {m : Move} (hs : s.seqPhase ≠ .idle) (hne : m ≠ .reset) (h : m.apply s = .next t) :
    configRegs t = configRegs s := by
  cases m
  case block => exact blockStep_configRegs hs h
  case reset => exact absurd rfl hne
  all_goals
    cases h
    rfl

theorem step_configRegs (hne : s.schedule.head? ≠ some .reset) (hs : s.seqPhase ≠ .idle) (h : step s = .next t) :
    configRegs t = configRegs s := by
  rcases step_cases h with hblock | ⟨m, rest, hm, _, happly⟩
  · exact blockStep_configRegs hs hblock
  · have hmove : m ≠ .reset := by
      rintro rfl
      exact hne (by rw [hm]; rfl)
    exact apply_configRegs (s := { s with schedule := rest }) hs hmove happly

/-- CSR_WRITE draws nothing and signals nothing, in whatever phase it is issued. -/
theorem exec_csrWrite_trace (h : exec .csrWrite s = .next t) : t.trace = s.trace := by
  rw [exec_eq_issue] at h
  rcases issue_cases h with ⟨_, hrule⟩ | ⟨_, _, _, rfl⟩ | ⟨_, _, rfl⟩ | ⟨_, _, rfl⟩
  · obtain ⟨_, _, _, _, _, _, _, _, rfl, _⟩ := csrWrite_ok hrule
    rfl
  all_goals rfl

/-- Settles O21: outside IDLE neither a command, nor an internal step, nor a move of the outside world writes the
configuration. -/
theorem configurationIsConstantOutsideIdle : Obligations.ConfigurationIsConstantOutsideIdle :=
  fun _ _ => ⟨step_configRegs, exec_csrWrite_trace⟩

end Sys2Proof.Machine
end
